-- ==== Sys2Proof/Word.lean ====
section
/-! DEFINITION. The field types of frames and records (chapter 12: fields of 1, 2 and 4 bytes). -/

namespace Sys2Proof

/-- A field of one byte. -/
abbrev Byte := BitVec 8
/-- A field of two bytes (little-endian in frames, R185). -/
abbrev Half := BitVec 16
/-- A field of four bytes (little-endian in frames, R185). -/
abbrev Wide := BitVec 32

end Sys2Proof
end

