-- ==== Sys2Proof/Config.lean ====
section
/-! DEFINITION. The fixed sizes of the part, and the one free value: a value the spec does not state. -/

namespace Sys2Proof.Config

/-- FREE VALUE (log 15): the speed formed at an index pulse whose interval from the pulse before is
0 µs; R113 divides by the interval and states no result there. Applied to `State.freeCount`. -/
opaque speedAtZeroInterval : Nat → Nat

/-- Order records of the order book (R1). -/
def orderRecords : Nat := 64
/-- Entries of the item pool (R3). -/
def itemPool : Nat := 512
/-- Items one order may hold (R4). -/
def itemsPerOrder : Nat := 16
/-- Image slots of the image store (R27). -/
def imageSlots : Nat := 512
/-- DRAM pages (R27). -/
def dramPages : Nat := 131072
/-- Bytes of one DRAM page (section 1.8: 64 KiB). -/
def pageBytes : Nat := 65536
/-- Elements of the head, numbered 0..6,143 (00 "Exposure geometry"). -/
def headElements : Nat := 6144
/-- Elements 0..6,099 over which dead markers are counted (R99). -/
def countedElements : Nat := 6100
/-- The upper bound of money (R38). -/
def moneyBound : Nat := 99999999
/-- The largest transport position, 2^48 − 1 (R109). -/
def positionMax : Nat := 281474976710655
/-- The lockout between two cuts in counts, 76 mm (R135). -/
def lockout : Nat := 3040
/-- Sheets one order bin holds (9.1). -/
def binCapacity : Nat := 100

end Sys2Proof.Config
end

