-- ==== Sys2Proof/Syntax.lean ====
section
/-! DEFINITION. The commands of the LC740: one constructor of `Instr` for each row of the spec's table
of operations and events. A request carries its port, its tag and the raw fields of its frame in the
order of section 12.7. -/

namespace Sys2Proof

/-- The three agent ports (chapter 11). -/
inductive Port where
  | order | till | line
  deriving DecidableEq, Repr

/-- The two magazine slots M1 and M2 (6.2). -/
inductive MagSlot where
  | m1 | m2
  deriving DecidableEq, Repr

/-- The three exposure channels (12.2: 0 R, 1 G, 2 B). -/
inductive Channel where
  | r | g | b
  deriving DecidableEq, Repr

/-- One value for each channel. -/
structure Rgb (α : Type) where
  r : α
  g : α
  b : α
  deriving DecidableEq, Repr

/-- The same value for each channel. -/
def Rgb.all {α : Type} (x : α) : Rgb α := ⟨x, x, x⟩

/-- What the port knows of a request frame beside its parameters: where it arrived, and its tag (R177). -/
structure Hdr where
  port : Port
  tag : Byte
  deriving DecidableEq, Repr

/-- Parameters of ORDER_OPEN. -/
structure OrderOpenArgs where
  number : Half
  origin : Byte
  service : Byte
  promo : Half
  index : Byte
  deriving DecidableEq, Repr

/-- Parameters of ITEM_ADD; the trims are signed bytes. -/
structure ItemAddArgs where
  number : Half
  slot : Half
  product : Byte
  qty : Byte
  mirror : Byte
  rotate : Byte
  trims : Rgb Byte
  deriving DecidableEq, Repr

/-- One tier of PRICE_STAGE: Qk and Pk. -/
structure TierArg where
  qty : Half
  price : Half
  deriving DecidableEq, Repr

/-- Parameters of PRICE_STAGE; always three tiers in the frame. -/
structure PriceStageArgs where
  product : Byte
  enabled : Byte
  width : Byte
  along : Half
  surface : Byte
  base : Half
  tierCount : Byte
  tier1 : TierArg
  tier2 : TierArg
  tier3 : TierArg
  deriving DecidableEq, Repr

/-- Parameters of PRICE_STAGE_GLOBALS. -/
structure GlobalsArgs where
  express : Half
  promoMax : Half
  indexPrice : Half
  indexProduct : Byte
  cashStep : Byte
  minCharge : Half
  tax : Half
  deriving DecidableEq, Repr

/-- One channel of CORRECTION_SET: a signed balance and an offset. -/
structure CorrArg where
  balance : Byte
  offset : Byte
  deriving DecidableEq, Repr

/-- Parameters of MAGAZINE_CONFIG. -/
structure MagConfigArgs where
  mode1 : Byte
  reset1 : Byte
  mode2 : Byte
  reset2 : Byte
  lowMm : Half
  endLead : Half
  deriving DecidableEq, Repr

/-- Parameters of CUTTER_CONFIG. -/
structure CutterArgs where
  markPath : Half
  blank : Half
  markTol : Half
  cutOffset : Half
  cutDwell : Byte
  deriving DecidableEq, Repr

/-- Parameters of PROCESSOR_CONFIG. -/
structure ProcessorArgs where
  budget : Half
  replUnit : Half
  replPulse : Half
  transit : Half
  tol : Byte
  deriving DecidableEq, Repr

/-- One routing window of ROUTE_SET. -/
structure WindowArg where
  base : Half
  limit : Half
  bank : Byte
  deriving DecidableEq, Repr

/-- Parameters of STANDBY_CONFIG. -/
structure StandbyArgs where
  timeout : Byte
  commit : Byte
  insertion : Byte
  reprint : Byte
  deriving DecidableEq, Repr

/-- One reading of the head's monitor that differs from the common one. -/
structure Reading where
  element : Nat
  channel : Channel
  value : BitVec 12
  deriving DecidableEq, Repr

/-- What the head's monitor returns for every element and channel during a calibration (R98: 0..4095):
`common`, but for the elements listed (the first entry for an element counts). -/
structure Readings where
  common : BitVec 12
  others : List Reading
  deriving DecidableEq, Repr

/-- The commands: the rows of the table, in its order. -/
inductive Instr where
  | powerOn
  | orderOpen (h : Hdr) (a : OrderOpenArgs)
  | itemAdd (h : Hdr) (a : ItemAddArgs)
  | itemRemove (h : Hdr) (number : Half) (item : Byte)
  | imageLoad (h : Hdr) (slot width height : Half)
  | imageRelease (h : Hdr) (slot : Half)
  | orderCommit (h : Hdr) (number : Half) (prepaid : Byte)
  | orderWithdraw (h : Hdr) (number : Half)
  | orderDiscard (h : Hdr) (number : Half)
  | priceStage (h : Hdr) (a : PriceStageArgs)
  | priceStageGlobals (h : Hdr) (a : GlobalsArgs)
  | priceActivate (h : Hdr)
  | orderSettle (h : Hdr) (number : Half)
  | orderPay (h : Hdr) (number : Half) (amount : Wide)
  | orderCollect (h : Hdr) (number : Half)
  | orderCancel (h : Hdr) (number : Half)
  | orderHold (h : Hdr) (number : Half)
  | orderRelease (h : Hdr) (number : Half)
  | orderReprint (h : Hdr) (number : Half) (item n : Byte)
  | lineRun (h : Hdr)
  | linePause (h : Hdr)
  | lineReset (h : Hdr)
  | lineWake (h : Hdr)
  | faultClear (h : Hdr) (causes : Byte)
  | headCalibrate (h : Hdr) (kind preempt : Byte)
  | calRefSet (h : Hdr) (ref : Rgb Half) (shortEvery : Half)
  | patternSet (h : Hdr) (mode : Byte)
  | testPrint (h : Hdr) (slot count : Byte)
  | correctionSet (h : Hdr) (surface : Byte) (corr : Rgb CorrArg)
  | correctionHold (h : Hdr) (mode : Byte)
  | curveLoad (h : Hdr) (surface channel : Byte) (levels : List Byte)
  | driveLoad (h : Hdr) (channel : Byte) (codes : List Half)
  | backprintConfig (h : Hdr) (enable : Byte) (start stop : Half)
  | magazineConfig (h : Hdr) (a : MagConfigArgs)
  | magazinePresent (h : Hdr) (slot presence : Byte)
  | rollSet (h : Hdr) (slot : Byte) (length : Wide)
  | pathConfig (h : Hdr) (countsPerRev : Half) (speedNom flushDelay : Byte)
  | cutterConfig (h : Hdr) (a : CutterArgs)
  | processorConfig (h : Hdr) (a : ProcessorArgs)
  | routeSet (h : Hdr) (window1 window2 : WindowArg)
  | standbyConfig (h : Hdr) (a : StandbyArgs)
  | binEmptied (h : Hdr) (bin : Byte)
  | itemSkip (h : Hdr) (number : Half) (item : Byte)
  | jamClear (h : Hdr) (n : Half)
  | orderStatus (h : Hdr) (number : Half)
  | orderList (h : Hdr) (state : Byte)
  | binStatus (h : Hdr)
  | lineStatus (h : Hdr)
  | magazineStatus (h : Hdr)
  | priceRead (h : Hdr) (copy entry : Byte)
  | flagsRead (h : Hdr)
  | flagsClear (h : Hdr) (mask : Half)
  | flagsEnable (h : Hdr) (word : Half)
  /-- `further`: whole bytes clocked after the REPLY_READ code byte (R178). -/
  | replyRead (port : Port) (further : Nat)
  /-- `bytes`: the whole bytes taken; `cut`: the transfer ended partway through a byte (R177). -/
  | malformedRequestFrame (port : Port) (bytes : List Byte) (cut : Bool)
  | frameValidRise
  /-- The 16 data lines and the level of line-valid at the strobe (R29). -/
  | imageWordStrobe (word : Half) (lineValid : Bool)
  | frameValidFall
  /-- The direction decoded from A and B (R109). -/
  | encoderTransition (forward : Bool)
  | encoderIndexPulse
  | encoderNoCountTimeout
  /-- By how much the time base moves to the moment of this advance, in µs (R114, log 12). -/
  | deadReckoningAdvance (us : Nat)
  | clearProbeSuccess
  | clearProbeFailure
  /-- The slot's detect input takes `level`; its code strip contacts read `strip` from then on. -/
  | detectInputChange (slot : MagSlot) (level : Bool) (strip : Half)
  | detectDebounced (slot : MagSlot)
  /-- The slot's paper end input changes; `shows`: it shows the end (R123). -/
  | paperEnd (slot : MagSlot) (shows : Bool)
  | changeoverComplete
  | calibrationComplete (readings : Readings)
  | flushTimerExpiry
  | markSensorRise
  | markSensorFall
  | bladeDwellEnd
  | bladeReturnTimeout
  /-- The level the blade home input takes; `true` is the row's assertion (log 5). -/
  | bladeHomeAsserted (asserted : Bool)
  | sheetArrival
  | entranceSensorClear
  | transitWatchdogExpiry
  | bucketAdvance
  | pumpPulseEnd
  | pumpGapEnd
  | binGateOff
  | standbyTimerExpiry
  | wakeTimerExpiry
  /-- The level the sorter entrance sensor input takes (R148). -/
  | sorterEntranceInputChange (level : Bool)
  deriving DecidableEq, Repr

end Sys2Proof
end

