-- ==== Sys2Proof/Decode.lean ====
section
/-! DEFINITION. The host's table decoder (no row gives bits), and the agent ports' frames: the request
codes and lengths of section 12.7, the check of a request frame (R177), the request a frame spells, and
the frame of a request. -/

namespace Sys2Proof

/-- No row of the table gives bits, so no word spells a command (log 27). -/
def decodeTableWord (_nbits _w : Nat) : Option Instr := none

/-! ### Byte order (R185: little-endian) -/

/-- The field of two bytes with `lo` at the lower offset. -/
def half (lo hi : Byte) : Half := hi ++ lo

/-- The field of four bytes, lowest offset first. -/
def wide (b0 b1 b2 b3 : Byte) : Wide := b3 ++ b2 ++ b1 ++ b0

/-- The two bytes of a field, lowest offset first. -/
def halfBytes (x : Half) : List Byte := [x.extractLsb' 0 8, x.extractLsb' 8 8]

/-- The four bytes of a field, lowest offset first. -/
def wideBytes (x : Wide) : List Byte :=
  [x.extractLsb' 0 8, x.extractLsb' 8 8, x.extractLsb' 16 8, x.extractLsb' 24 8]

/-- A list of two-byte fields as bytes. -/
def halvesBytes : List Half → List Byte
  | [] => []
  | x :: xs => x.extractLsb' 0 8 :: x.extractLsb' 8 8 :: halvesBytes xs

/-- Bytes as two-byte fields; `none` for an odd number of bytes. -/
def bytesHalves : List Byte → Option (List Half)
  | [] => some []
  | lo :: hi :: rest => (bytesHalves rest).map (half lo hi :: ·)
  | [_] => none

/-! ### Requests (R185, 12.7) -/

/-- The code of REPLY_READ (R185). -/
def replyReadCode : Nat := 0

/-- The parameter length of each request, codes 1..52 in order (12.7). -/
def requestLengths : List Nat :=
  [7, 11, 3, 6, 2, 3, 2, 2] ++ [21, 12, 0, 2, 6, 2, 2, 2, 2, 4] ++
  [0, 0, 0, 0, 1, 2, 8, 1, 2, 7, 1, 258, 257, 5, 8, 2, 5, 4, 9, 9, 10, 4, 1, 3, 2] ++
  [2, 1, 0, 0, 0, 2, 0, 2, 2]

/-- The parameter length R177 requires for a code; `none` when the code names no request. -/
def requestLength (code : Nat) : Option Nat :=
  if code = 0 then none else requestLengths[code - 1]?

/-- R177: a request frame is refused with E_FORMAT. `cut`: the transfer ended partway through a byte. -/
def frameMalformed (bytes : List Byte) (cut : Bool) : Bool :=
  cut ||
  match bytes with
  | code :: _tag :: lo :: hi :: params =>
    let len := (half lo hi).toNat
    decide (512 < len) || params.length != len || requestLength code.toNat != some len
  | _ => true

/-- The request a code and its parameters spell; `none` when the code names no request or the
parameters do not have its length. -/
def parseParams (h : Hdr) (code : Nat) (ps : List Byte) : Option Instr :=
  match code with
  | 1 => match ps with
    | [n0, n1, o, s, p0, p1, i] => some (.orderOpen h ⟨half n0 n1, o, s, half p0 p1, i⟩)
    | _ => none
  | 2 => match ps with
    | [n0, n1, s0, s1, p, q, m, r, tr, tg, tb] =>
      some (.itemAdd h ⟨half n0 n1, half s0 s1, p, q, m, r, ⟨tr, tg, tb⟩⟩)
    | _ => none
  | 3 => match ps with
    | [n0, n1, i] => some (.itemRemove h (half n0 n1) i)
    | _ => none
  | 4 => match ps with
    | [s0, s1, w0, w1, h0, h1] => some (.imageLoad h (half s0 s1) (half w0 w1) (half h0 h1))
    | _ => none
  | 5 => match ps with
    | [s0, s1] => some (.imageRelease h (half s0 s1))
    | _ => none
  | 6 => match ps with
    | [n0, n1, p] => some (.orderCommit h (half n0 n1) p)
    | _ => none
  | 7 => match ps with
    | [n0, n1] => some (.orderWithdraw h (half n0 n1))
    | _ => none
  | 8 => match ps with
    | [n0, n1] => some (.orderDiscard h (half n0 n1))
    | _ => none
  | 9 => match ps with
    | [p, e, w, a0, a1, s, b0, b1, c, q10, q11, p10, p11, q20, q21, p20, p21, q30, q31, p30, p31] =>
      some (.priceStage h ⟨p, e, w, half a0 a1, s, half b0 b1, c, ⟨half q10 q11, half p10 p11⟩,
        ⟨half q20 q21, half p20 p21⟩, ⟨half q30 q31, half p30 p31⟩⟩)
    | _ => none
  | 10 => match ps with
    | [e0, e1, m0, m1, i0, i1, ip, cs, c0, c1, t0, t1] =>
      some (.priceStageGlobals h ⟨half e0 e1, half m0 m1, half i0 i1, ip, cs, half c0 c1, half t0 t1⟩)
    | _ => none
  | 11 => match ps with
    | [] => some (.priceActivate h)
    | _ => none
  | 12 => match ps with
    | [n0, n1] => some (.orderSettle h (half n0 n1))
    | _ => none
  | 13 => match ps with
    | [n0, n1, a0, a1, a2, a3] => some (.orderPay h (half n0 n1) (wide a0 a1 a2 a3))
    | _ => none
  | 14 => match ps with
    | [n0, n1] => some (.orderCollect h (half n0 n1))
    | _ => none
  | 15 => match ps with
    | [n0, n1] => some (.orderCancel h (half n0 n1))
    | _ => none
  | 16 => match ps with
    | [n0, n1] => some (.orderHold h (half n0 n1))
    | _ => none
  | 17 => match ps with
    | [n0, n1] => some (.orderRelease h (half n0 n1))
    | _ => none
  | 18 => match ps with
    | [n0, n1, i, n] => some (.orderReprint h (half n0 n1) i n)
    | _ => none
  | 19 => match ps with
    | [] => some (.lineRun h)
    | _ => none
  | 20 => match ps with
    | [] => some (.linePause h)
    | _ => none
  | 21 => match ps with
    | [] => some (.lineReset h)
    | _ => none
  | 22 => match ps with
    | [] => some (.lineWake h)
    | _ => none
  | 23 => match ps with
    | [c] => some (.faultClear h c)
    | _ => none
  | 24 => match ps with
    | [k, p] => some (.headCalibrate h k p)
    | _ => none
  | 25 => match ps with
    | [r0, r1, g0, g1, b0, b1, s0, s1] =>
      some (.calRefSet h ⟨half r0 r1, half g0 g1, half b0 b1⟩ (half s0 s1))
    | _ => none
  | 26 => match ps with
    | [m] => some (.patternSet h m)
    | _ => none
  | 27 => match ps with
    | [s, c] => some (.testPrint h s c)
    | _ => none
  | 28 => match ps with
    | [s, rb, ro, gb, go, bb, bo] => some (.correctionSet h s ⟨⟨rb, ro⟩, ⟨gb, go⟩, ⟨bb, bo⟩⟩)
    | _ => none
  | 29 => match ps with
    | [m] => some (.correctionHold h m)
    | _ => none
  | 30 => match ps with
    | s :: c :: levels => if levels.length = 256 then some (.curveLoad h s c levels) else none
    | _ => none
  | 31 => match ps with
    | c :: rest => match bytesHalves rest with
      | some codes => if codes.length = 128 then some (.driveLoad h c codes) else none
      | none => none
    | _ => none
  | 32 => match ps with
    | [e, s0, s1, t0, t1] => some (.backprintConfig h e (half s0 s1) (half t0 t1))
    | _ => none
  | 33 => match ps with
    | [m1, r1, m2, r2, l0, l1, e0, e1] =>
      some (.magazineConfig h ⟨m1, r1, m2, r2, half l0 l1, half e0 e1⟩)
    | _ => none
  | 34 => match ps with
    | [s, p] => some (.magazinePresent h s p)
    | _ => none
  | 35 => match ps with
    | [s, l0, l1, l2, l3] => some (.rollSet h s (wide l0 l1 l2 l3))
    | _ => none
  | 36 => match ps with
    | [c0, c1, s, f] => some (.pathConfig h (half c0 c1) s f)
    | _ => none
  | 37 => match ps with
    | [m0, m1, b0, b1, t0, t1, o0, o1, d] =>
      some (.cutterConfig h ⟨half m0 m1, half b0 b1, half t0 t1, half o0 o1, d⟩)
    | _ => none
  | 38 => match ps with
    | [b0, b1, u0, u1, p0, p1, t0, t1, d] =>
      some (.processorConfig h ⟨half b0 b1, half u0 u1, half p0 p1, half t0 t1, d⟩)
    | _ => none
  | 39 => match ps with
    | [a0, a1, b0, b1, k1, c0, c1, d0, d1, k2] =>
      some (.routeSet h ⟨half a0 a1, half b0 b1, k1⟩ ⟨half c0 c1, half d0 d1, k2⟩)
    | _ => none
  | 40 => match ps with
    | [t, c, i, r] => some (.standbyConfig h ⟨t, c, i, r⟩)
    | _ => none
  | 41 => match ps with
    | [b] => some (.binEmptied h b)
    | _ => none
  | 42 => match ps with
    | [n0, n1, i] => some (.itemSkip h (half n0 n1) i)
    | _ => none
  | 43 => match ps with
    | [n0, n1] => some (.jamClear h (half n0 n1))
    | _ => none
  | 44 => match ps with
    | [n0, n1] => some (.orderStatus h (half n0 n1))
    | _ => none
  | 45 => match ps with
    | [s] => some (.orderList h s)
    | _ => none
  | 46 => match ps with
    | [] => some (.binStatus h)
    | _ => none
  | 47 => match ps with
    | [] => some (.lineStatus h)
    | _ => none
  | 48 => match ps with
    | [] => some (.magazineStatus h)
    | _ => none
  | 49 => match ps with
    | [c, e] => some (.priceRead h c e)
    | _ => none
  | 50 => match ps with
    | [] => some (.flagsRead h)
    | _ => none
  | 51 => match ps with
    | [m0, m1] => some (.flagsClear h (half m0 m1))
    | _ => none
  | 52 => match ps with
    | [w0, w1] => some (.flagsEnable h (half w0 w1))
    | _ => none
  | _ => none

/-- The code, the header and the parameters of a request; `none` for a command that is no request. -/
def encodeParams : Instr → Option (Nat × Hdr × List Byte)
  | .orderOpen h a =>
    some (1, h, halfBytes a.number ++ [a.origin, a.service] ++ halfBytes a.promo ++ [a.index])
  | .itemAdd h a =>
    some (2, h, halfBytes a.number ++ halfBytes a.slot ++
      [a.product, a.qty, a.mirror, a.rotate, a.trims.r, a.trims.g, a.trims.b])
  | .itemRemove h n i => some (3, h, halfBytes n ++ [i])
  | .imageLoad h s w ht => some (4, h, halfBytes s ++ halfBytes w ++ halfBytes ht)
  | .imageRelease h s => some (5, h, halfBytes s)
  | .orderCommit h n p => some (6, h, halfBytes n ++ [p])
  | .orderWithdraw h n => some (7, h, halfBytes n)
  | .orderDiscard h n => some (8, h, halfBytes n)
  | .priceStage h a =>
    some (9, h, [a.product, a.enabled, a.width] ++ halfBytes a.along ++ [a.surface] ++
      halfBytes a.base ++ [a.tierCount] ++ halfBytes a.tier1.qty ++ halfBytes a.tier1.price ++
      halfBytes a.tier2.qty ++ halfBytes a.tier2.price ++ halfBytes a.tier3.qty ++
      halfBytes a.tier3.price)
  | .priceStageGlobals h a =>
    some (10, h, halfBytes a.express ++ halfBytes a.promoMax ++ halfBytes a.indexPrice ++
      [a.indexProduct, a.cashStep] ++ halfBytes a.minCharge ++ halfBytes a.tax)
  | .priceActivate h => some (11, h, [])
  | .orderSettle h n => some (12, h, halfBytes n)
  | .orderPay h n a => some (13, h, halfBytes n ++ wideBytes a)
  | .orderCollect h n => some (14, h, halfBytes n)
  | .orderCancel h n => some (15, h, halfBytes n)
  | .orderHold h n => some (16, h, halfBytes n)
  | .orderRelease h n => some (17, h, halfBytes n)
  | .orderReprint h n i k => some (18, h, halfBytes n ++ [i, k])
  | .lineRun h => some (19, h, [])
  | .linePause h => some (20, h, [])
  | .lineReset h => some (21, h, [])
  | .lineWake h => some (22, h, [])
  | .faultClear h c => some (23, h, [c])
  | .headCalibrate h k p => some (24, h, [k, p])
  | .calRefSet h r s =>
    some (25, h, halfBytes r.r ++ halfBytes r.g ++ halfBytes r.b ++ halfBytes s)
  | .patternSet h m => some (26, h, [m])
  | .testPrint h s c => some (27, h, [s, c])
  | .correctionSet h s c =>
    some (28, h, [s, c.r.balance, c.r.offset, c.g.balance, c.g.offset, c.b.balance, c.b.offset])
  | .correctionHold h m => some (29, h, [m])
  | .curveLoad h s c levels => some (30, h, [s, c] ++ levels)
  | .driveLoad h c codes => some (31, h, [c] ++ halvesBytes codes)
  | .backprintConfig h e s t => some (32, h, [e] ++ halfBytes s ++ halfBytes t)
  | .magazineConfig h a =>
    some (33, h, [a.mode1, a.reset1, a.mode2, a.reset2] ++ halfBytes a.lowMm ++ halfBytes a.endLead)
  | .magazinePresent h s p => some (34, h, [s, p])
  | .rollSet h s l => some (35, h, [s] ++ wideBytes l)
  | .pathConfig h c s f => some (36, h, halfBytes c ++ [s, f])
  | .cutterConfig h a =>
    some (37, h, halfBytes a.markPath ++ halfBytes a.blank ++ halfBytes a.markTol ++
      halfBytes a.cutOffset ++ [a.cutDwell])
  | .processorConfig h a =>
    some (38, h, halfBytes a.budget ++ halfBytes a.replUnit ++ halfBytes a.replPulse ++
      halfBytes a.transit ++ [a.tol])
  | .routeSet h w v =>
    some (39, h, halfBytes w.base ++ halfBytes w.limit ++ [w.bank] ++ halfBytes v.base ++
      halfBytes v.limit ++ [v.bank])
  | .standbyConfig h a => some (40, h, [a.timeout, a.commit, a.insertion, a.reprint])
  | .binEmptied h b => some (41, h, [b])
  | .itemSkip h n i => some (42, h, halfBytes n ++ [i])
  | .jamClear h n => some (43, h, halfBytes n)
  | .orderStatus h n => some (44, h, halfBytes n)
  | .orderList h s => some (45, h, [s])
  | .binStatus h => some (46, h, [])
  | .lineStatus h => some (47, h, [])
  | .magazineStatus h => some (48, h, [])
  | .priceRead h c e => some (49, h, [c, e])
  | .flagsRead h => some (50, h, [])
  | .flagsClear h m => some (51, h, halfBytes m)
  | .flagsEnable h w => some (52, h, halfBytes w)
  | .powerOn | .replyRead _ _ | .malformedRequestFrame _ _ _ | .frameValidRise
  | .imageWordStrobe _ _ | .frameValidFall | .encoderTransition _ | .encoderIndexPulse
  | .encoderNoCountTimeout | .deadReckoningAdvance _ | .clearProbeSuccess | .clearProbeFailure
  | .detectInputChange _ _ _ | .detectDebounced _ | .paperEnd _ _ | .changeoverComplete
  | .calibrationComplete _ | .flushTimerExpiry | .markSensorRise | .markSensorFall
  | .bladeDwellEnd | .bladeReturnTimeout | .bladeHomeAsserted _ | .sheetArrival
  | .entranceSensorClear | .transitWatchdogExpiry | .bucketAdvance | .pumpPulseEnd | .pumpGapEnd
  | .binGateOff | .standbyTimerExpiry | .wakeTimerExpiry | .sorterEntranceInputChange _ => none

/-- The bytes of the frame of a request (12.1): code, tag, parameter length, parameters. -/
def requestFrame (i : Instr) : Option (List Byte) :=
  match encodeParams i with
  | some (code, h, ps) =>
    some ([BitVec.ofNat 8 code, h.tag] ++ halfBytes (BitVec.ofNat 16 ps.length) ++ ps)
  | none => none

/-- One byte from its eight bits, most significant first (R176). -/
def gatherByte (bits : List Bool) : Byte :=
  BitVec.ofNat 8 (bits.foldl (fun n b => 2 * n + if b then 1 else 0) 0)

/-- The whole bytes of a transfer's bits in the order taken, and whether it ended partway through a byte
(R176, R177); `n` bounds the number of bytes. -/
def gatherBytes : (n : Nat) → List Bool → List Byte × Bool
  | 0, bits => ([], !bits.isEmpty)
  | n + 1, bits =>
    if bits.length < 8 then ([], !bits.isEmpty)
    else
      let r := gatherBytes n (bits.drop 8)
      (gatherByte (bits.take 8) :: r.1, r.2)

/-- The bits that present bytes on data out, most significant bit of each byte first (R176). -/
def presentBits (bytes : List Byte) : List Bool :=
  bytes.flatMap fun b => (List.range 8).map fun k => b.getLsbD (7 - k)

/-- The command that one transfer on a port gives (R176, R177, R178): none when no whole byte was taken,
a reply transfer when the first byte is the REPLY_READ code, else the request its frame spells, or a
malformed request frame. -/
def parseTransfer (port : Port) (bytes : List Byte) (cut : Bool) : Option Instr :=
  match bytes with
  | [] => none
  | code :: rest =>
    if code.toNat = replyReadCode then some (.replyRead port rest.length)
    else if frameMalformed bytes cut then some (.malformedRequestFrame port bytes cut)
    else match rest with
      | tag :: _ :: _ :: params => parseParams ⟨port, tag⟩ code.toNat params
      | _ => none

/-- The command that the bits clocked in during one chip-select period give (R176). -/
def parseBits (port : Port) (bits : List Bool) : Option Instr :=
  let r := gatherBytes bits.length bits
  parseTransfer port r.1 r.2

end Sys2Proof
end

