-- ==== Sys2Proof/Machine/State.lean ====
section
/-! DEFINITION. The state of the LC740 as plain data, the reasons a step could stop with, and the state
right after power-on. Quantities are natural numbers in the spec's units; times are in ms unless a name
says µs. What is not stored (item pool, page pool, slot states, current order, open piece, pending cut,
watchdog, attention) is computed from what is (log 21). -/

namespace Sys2Proof.Machine

/-! ### Order book (chapter 1) -/

/-- The state of an order record (1.1); `opened` is OPEN. -/
inductive OrderState where
  | free | opened | queued | active | held | draining | ready | void
  deriving DecidableEq, Repr

/-- Where an order was taken (1.1). -/
inductive Origin where
  | kiosk1 | kiosk2 | kiosk3 | kiosk4 | counter | online
  deriving DecidableEq, Repr

/-- Service class (1.1). -/
inductive Service where
  | standard | express
  deriving DecidableEq, Repr

/-- The four hold reasons (1.5). -/
inductive Hold where
  | till | operator | paper | fault
  deriving DecidableEq, Repr

/-- A set of hold reasons. -/
structure Holds where
  till : Bool
  operator : Bool
  paper : Bool
  fault : Bool
  deriving DecidableEq, Repr

/-- Mirror option of an item (1.2). -/
structure Mirror where
  across : Bool
  along : Bool
  deriving DecidableEq, Repr

/-- The quantities of an item or of the index pseudo-item (1.2). -/
structure Counts where
  /-- ordered -/
  q : Nat
  /-- courtesy -/
  c : Nat
  /-- delivered -/
  d : Nat
  /-- in flight -/
  w : Nat
  /-- pending -/
  p : Nat
  /-- skipped or discarded -/
  s : Nat
  spoil : Nat
  deriving DecidableEq, Repr

/-- An item record (1.2). -/
structure Item where
  slot : Nat
  product : Nat
  mirror : Mirror
  rotate : Bool
  trims : Rgb Int
  n : Counts
  deriving DecidableEq, Repr

/-- The index pseudo-item (R6). -/
structure IndexItem where
  product : Option Nat
  n : Counts
  deriving DecidableEq, Repr

/-! ### Prices (chapter 2) -/

/-- A paper surface. -/
inductive Surface where
  | gloss | matte | lustre
  deriving DecidableEq, Repr

/-- A product surface: ANY or one surface (2.1). -/
inductive ProductSurface where
  | any
  | of (surface : Surface)
  deriving DecidableEq, Repr

/-- Size in mm and surface of a print. -/
structure Geometry where
  across : Nat
  along : Nat
  surface : ProductSurface
  deriving DecidableEq, Repr

/-- A price tier (Qk, Pk). -/
structure Tier where
  qty : Nat
  price : Nat
  deriving DecidableEq, Repr

/-- A product entry (2.1). -/
structure Product where
  enabled : Bool
  geom : Geometry
  base : Nat
  tiers : List Tier
  deriving DecidableEq, Repr

/-- The globals of a price table (2.1). -/
structure Globals where
  express : Nat
  promoMax : Nat
  indexPrice : Nat
  indexProduct : Nat
  minCharge : Nat
  tax : Nat
  cashStep : Nat
  deriving DecidableEq, Repr

/-- A price table: sixteen products and the globals. -/
structure PriceTable where
  products : List Product
  globals : Globals
  deriving DecidableEq, Repr

/-- The seven values of a quote or a settlement (R40); `n` is N′. -/
structure Breakdown where
  g : Nat
  e : Nat
  d : Nat
  n : Nat
  t : Nat
  a : Nat
  f : Nat
  deriving DecidableEq, Repr

/-- An entry of a lock's product list (R41). -/
structure LockEntry where
  product : Nat
  np : Nat
  up : Nat
  geom : Geometry
  deriving DecidableEq, Repr

/-- The price lock (R41). -/
structure Lock where
  generation : Nat
  entries : List LockEntry
  indexGeom : Option Geometry
  globals : Globals
  quote : Breakdown
  deriving DecidableEq, Repr

/-- The settled field (R45): the seven values, Cp of each lock entry, index charged. -/
structure Settled where
  values : Breakdown
  charged : List Nat
  indexCharged : Bool
  deriving DecidableEq, Repr

/-- An order record (1.1). -/
structure Order where
  number : Nat
  state : OrderState
  origin : Origin
  service : Service
  indexRequested : Bool
  promo : Nat
  sequence : Option Nat
  holds : Holds
  items : List Item
  index : Option IndexItem
  bins : List Nat
  lock : Option Lock
  settled : Option Settled
  paid : Option Nat
  started : Bool
  inspect : Bool
  deriving DecidableEq, Repr

/-- The order book: 64 records, the print queue as record indexes, the sequence counter. -/
structure Book where
  records : List Order
  queue : List Nat
  sequence : Nat
  deriving DecidableEq, Repr

/-! ### Image store (1.8) -/

/-- State of an image slot. -/
inductive ImageState where
  | free | loading | loaded
  deriving DecidableEq, Repr

/-- Width and height of an image in pixels. -/
structure ImageSize where
  width : Nat
  height : Nat
  deriving DecidableEq, Repr

/-- An image slot (1.8); its page count is the length of `pages`. -/
structure ImageSlot where
  state : ImageState
  size : Option ImageSize
  refs : Nat
  pages : List Nat
  deriving DecidableEq, Repr

/-- The load in flight: its slot, the words taken, and whether the rising edge of frame-valid that
follows its acceptance has come (R29). -/
structure Load where
  slot : Nat
  taken : Nat
  started : Bool
  deriving DecidableEq, Repr

/-- The image store: slots, load in flight, the level of frame-valid, and the DRAM as (address, byte)
pairs in canonical form (an unlisted byte reads 0, log 20). -/
structure ImageStore where
  slots : List ImageSlot
  load : Option Load
  frameValid : Bool
  dram : List Host.Cell
  deriving DecidableEq, Repr

/-- The price unit (R32). -/
structure PriceUnit where
  active : PriceTable
  staged : PriceTable
  generation : Nat
  deriving DecidableEq, Repr

/-! ### Print scheduler (chapter 3) -/

/-- Why no frame starts (R61). -/
inductive WaitCause where
  | none | runEnable | lineState | calibration | listRoom | processor
  deriving DecidableEq, Repr

/-- Stage of a changeover request (R59). -/
inductive RequestStage where
  | flush | change
  deriving DecidableEq, Repr

/-- The scheduler's changeover request (R59). -/
structure ChangeRequest where
  slot : MagSlot
  stage : RequestStage
  deriving DecidableEq, Repr

/-- Scheduler state (chapter 3); `flushTimer` is its start time, `flushDelay` in s. `deferred` is the MODEL'S
OWN (log 28): a pattern mode change or an insertion taken during the flush or changeover under way whose
effect on the scheduler waits for its end (R103, R118). -/
structure Scheduler where
  waitCause : WaitCause
  request : Option ChangeRequest
  framesSinceCal : Nat
  shortEvery : Nat
  flushTimer : Option Nat
  flushDelay : Nat
  queueBlocked : Bool
  deferred : Bool
  deriving DecidableEq, Repr

/-! ### Exposure engine (chapter 4) -/

/-- One value for each paper surface. -/
structure PerSurface (α : Type) where
  gloss : α
  matte : α
  lustre : α
  deriving DecidableEq, Repr

/-- Balance and offset of one channel (R85). -/
structure Corr where
  balance : Int
  offset : Nat
  deriving DecidableEq, Repr

/-- Kind of a frame or sheet. -/
inductive FrameKind where
  | print | index | test
  deriving DecidableEq, Repr

/-- The print a frame makes: order number, record index, item position (0 the index). -/
structure Target where
  number : Nat
  record : Nat
  item : Nat
  deriving DecidableEq, Repr

/-- The frame context (R71); the back-print snapshot is `bp…` with the frame sequence. -/
structure FrameContext where
  kind : FrameKind
  target : Option Target
  slot : Option Nat
  mirror : Mirror
  rotate : Bool
  trims : Rgb Int
  cols : Nat
  lines : Nat
  surface : Surface
  start : Nat
  next : Nat
  corr : Rgb Corr
  bpEnable : Bool
  bpStart : Nat
  bpStop : Nat
  bpSeq : Nat
  /-- the distinct image slots of an INDEX frame, cell 0 first (R82) -/
  plan : List Nat
  deriving DecidableEq, Repr

/-- What the engine writes: nothing, a frame, or a closing gap with its start and next line. -/
inductive EngineWork where
  | idle
  | frame (ctx : FrameContext)
  | closing (start next : Nat)
  deriving DecidableEq, Repr

/-- What the head's drive code outputs present (R70): code 0 everywhere, the codes of a line, or the drive of
a calibration (log 14). -/
inductive HeadDrive where
  | zero
  | measuring
  | codes (line : Rgb (List Nat))
  deriving DecidableEq, Repr

/-- A line given the line strobe: its number in the frame and its codes. -/
structure HeadLine where
  line : Nat
  codes : Rgb (List Nat)
  deriving DecidableEq, Repr

/-- The back-print outputs while the strobe is asserted (R89). -/
structure BackPrint where
  number : Nat
  seq : Nat
  deriving DecidableEq, Repr

/-- Exposure engine and head outputs (chapter 4); `strobed` holds the lines given the line strobe within
the latest command that was carried out, in order (log 14). -/
structure Engine where
  work : EngineWork
  curves : PerSurface (Rgb (List Nat))
  drive : Rgb (List Nat)
  staged : PerSurface (Rgb Corr)
  live : PerSurface (Rgb Corr)
  hold : Bool
  waiting : Bool
  bpEnable : Bool
  bpStart : Nat
  bpStop : Nat
  bpCounters : List Nat
  strobe : Option BackPrint
  presented : HeadDrive
  strobed : List HeadLine
  deriving DecidableEq, Repr

/-! ### Head calibration unit (chapter 5) -/

/-- Kind of a calibration. -/
inductive CalKind where
  | short | long
  deriving DecidableEq, Repr

/-- The calibration in progress (R97). -/
structure CalRun where
  kind : CalKind
  start : Nat
  ref : Rgb Nat
  deriving DecidableEq, Repr

/-- The outstanding test request (R104). -/
structure TestRequest where
  slot : MagSlot
  remaining : Nat
  deriving DecidableEq, Repr

/-- Head calibration unit and pattern mode (chapter 5). -/
structure CalUnit where
  trim : Rgb (List Nat)
  dead : Rgb (List Bool)
  calibrated : Bool
  shortPtr : Nat
  pending : Option CalKind
  run : Option CalRun
  ref : Rgb Nat
  pattern : Bool
  test : Option TestRequest
  deriving DecidableEq, Repr

/-! ### Transport and magazines (chapter 6) -/

/-- Dead reckoning in force (R114): base position, counts per second, running time in µs. -/
structure DeadReckoning where
  base : Nat
  speed : Nat
  runUs : Nat
  deriving DecidableEq, Repr

/-- A running clear probe (R115). -/
structure Probe where
  start : Nat
  counts : Nat
  deriving DecidableEq, Repr

/-- A changeover in progress (R125). -/
structure Changeover where
  incoming : MagSlot
  start : Nat
  deriving DecidableEq, Repr

/-- Width, surface and serial of a magazine (R118). -/
structure MagContext where
  width : Nat
  surface : Surface
  serial : Nat
  deriving DecidableEq, Repr

/-- Remaining length of a roll. -/
inductive Remaining where
  | absent
  | unknown
  | mm (n : Nat)
  deriving DecidableEq, Repr

/-- A slot's derived state (R116). -/
inductive MagState where
  | absent | unusable | ready | active | low | empty
  deriving DecidableEq, Repr

/-- A magazine slot (6.2) with its inputs: detect level and since when, code strip contacts, paper end
level; `software` is the detect mode SOFTWARE, `rawStrip` the strip read at the last insertion. -/
structure Mag where
  software : Bool
  softPresent : Bool
  debounced : Bool
  ctx : Option MagContext
  remaining : Remaining
  endSeen : Bool
  carry : Nat
  consumedTo : Nat
  resetEnable : Bool
  rawStrip : Half
  detect : Bool
  detectSince : Nat
  strip : Half
  endInput : Bool
  deriving DecidableEq, Repr

/-- Transport unit (chapter 6); `pulseUs` is the time of the last index pulse of this motor run with no
reverse count since, `matched` whether a pulse of this run has matched (R113, log 33), `lastCount` the time of
the last count or motor start. `revInUse` is COUNTS_PER_REV
as it stood at the last index pulse and `nomInUse` SPEED_NOM as it stood at the last motor start: new
values apply from the next of each (R108). -/
structure Transport where
  position : Nat
  motor : Bool
  indexRef : Option Nat
  mismatches : Nat
  speed : Option Nat
  lastCount : Nat
  pulseUs : Option Nat
  matched : Bool
  encoder : Bool
  deadReckoning : Option DeadReckoning
  probe : Option Probe
  countsPerRev : Nat
  speedNom : Nat
  revInUse : Nat
  nomInUse : Nat
  threaded : Option MagSlot
  changeover : Option Changeover
  m1 : Mag
  m2 : Mag
  lowMm : Nat
  endLead : Nat
  deriving DecidableEq, Repr

/-! ### Cutter unit (chapter 7) -/

/-- Kind of a web record (R128). -/
inductive RecordKind where
  | print | index | test | waste | closing
  deriving DecidableEq, Repr

/-- An order number with an item position. -/
structure OrderItem where
  number : Nat
  item : Nat
  deriving DecidableEq, Repr

/-- The mark of a web record (R128). -/
inductive Mark where
  | unseen
  | taken (capture : Nat)
  | missed
  deriving DecidableEq, Repr

/-- A web record (R128). -/
structure WebRecord where
  kind : RecordKind
  order : Option OrderItem
  start : Nat
  span : Nat
  expected : Nat
  area : Nat
  inspect : Bool
  mark : Mark
  cut : Option Nat
  leading : Bool
  deriving DecidableEq, Repr

/-- The last taken mark: capture position and deviation from E. -/
structure LastMark where
  capture : Nat
  deviation : Int
  deriving DecidableEq, Repr

/-- The blade (R136); DOWN keeps the dwell taken at the fire. -/
inductive Blade where
  | isIn
  | down (since dwell : Nat)
  | returning (since : Nat)
  | stuck
  deriving DecidableEq, Repr

/-- The diverter (R138). -/
inductive Diverter where
  | chute | processor
  deriving DecidableEq, Repr

/-- Cutter unit (chapter 7) with its mark sensor and blade home inputs. -/
structure Cutter where
  web : List WebRecord
  lastCut : Option Nat
  lastMark : Option LastMark
  candidate : Option Nat
  blade : Blade
  diverter : Diverter
  markPath : Nat
  blank : Nat
  markTol : Nat
  cutOffset : Nat
  cutDwell : Nat
  markInput : Bool
  homeInput : Bool
  deriving DecidableEq, Repr

/-! ### Processor monitor (chapter 8) -/

/-- A sheet record (R147). -/
structure Sheet where
  kind : FrameKind
  order : Option OrderItem
  cutTime : Nat
  due : Nat
  area : Nat
  inspect : Bool
  deriving DecidableEq, Repr

/-- The pump phase with its start and length (R146). -/
inductive Pump where
  | idle
  | pulse (since len : Nat)
  | gap (since len : Nat)
  deriving DecidableEq, Repr

/-- Processor monitor (chapter 8); `second` is the time-base second of the current bucket, `transit`
and `tol` are in s, `stop` is the time the processor stop was asserted at. -/
structure Monitor where
  buckets : List Nat
  second : Nat
  budget : Nat
  accumulator : Nat
  pulses : Nat
  pump : Pump
  replUnit : Nat
  replPulse : Nat
  sheets : List Sheet
  transit : Nat
  tol : Nat
  stop : Option Nat
  sensor : Bool
  input : Bool
  inputSince : Nat
  deriving DecidableEq, Repr

/-! ### Sorter (chapter 9) -/

/-- State of an order bin (R153). -/
inductive BinState where
  | free | reserved | filling | complete | purge
  deriving DecidableEq, Repr

/-- An order bin; the owner is an order number. -/
structure Bin where
  state : BinState
  owner : Option Nat
  count : Nat
  deriving DecidableEq, Repr

/-- The two banks (9.1). -/
inductive Bank where
  | a | b
  deriving DecidableEq, Repr

/-- A routing window (R154). -/
structure Window where
  base : Nat
  limit : Nat
  bank : Bank
  deriving DecidableEq, Repr

/-- Sorter unit (chapter 9): bins 1..24 in order, the reject count, windows, outputs. -/
structure Sorter where
  bins : List Bin
  reject : Nat
  window1 : Window
  window2 : Window
  select : Nat
  gate : Option Nat
  deriving DecidableEq, Repr

/-! ### Line controller (chapter 10) -/

/-- The line state (R164). -/
inductive LineState where
  | stopped | exposing | flushing | changeover | calibrating | standby | waking | fault
  deriving DecidableEq, Repr

/-- The fault causes (10.2). -/
inductive Cause where
  | paperBreak | jam | encoder | cutter | head | rejectFull
  deriving DecidableEq, Repr

/-- A set of fault causes. -/
structure FaultSet where
  paperBreak : Bool
  jam : Bool
  encoder : Bool
  cutter : Bool
  head : Bool
  rejectFull : Bool
  deriving DecidableEq, Repr

/-- The last clear probe result (R170). -/
inductive ProbeResult where
  | none | running | passed | failed
  deriving DecidableEq, Repr

/-- Line controller (chapter 10); the timers hold their start times, the timeout is in minutes. -/
structure LineCtl where
  line : LineState
  runEnable : Bool
  pausePending : Bool
  faults : FaultSet
  timeout : Nat
  wakeCommit : Bool
  wakeInsertion : Bool
  wakeReprint : Bool
  standbyTimer : Option Nat
  wakeTimer : Option Nat
  lastProbe : ProbeResult
  deriving DecidableEq, Repr

/-! ### Agent ports (chapter 11) -/

/-- The result codes (R180). -/
inductive Status where
  | ok | accepted | eFormat | eRole | eRange | eState | eNoOrder | eFull | eLimit | eDuplicate
  | eEmpty | eImage | eSize | eProduct | eQuantity | eInUse | eMemory | eBusy | eTable | eShortPay
  | ePaid
  deriving DecidableEq, Repr

/-- A reply (12.1). -/
structure Reply where
  status : Status
  tag : Byte
  code : Byte
  payload : List Byte
  deriving DecidableEq, Repr

/-- One agent port: reply holder, flag copy, enables, and the bytes that data out presented during the
latest transfer in which a whole byte was taken (log 26): those of a reply from its second byte on (R178), 0
throughout a request frame (R176). -/
structure PortState where
  holder : Option Reply
  flags : Half
  enables : Half
  out : List Byte
  deriving DecidableEq, Repr

/-- The three ports. -/
structure Ports where
  order : PortState
  till : PortState
  line : PortState
  deriving DecidableEq, Repr

/-- MODEL'S OWN (log 10): events of R53, R60 and R63 that the command under way has brought about.
All clear between commands. -/
structure Due where
  scan : Bool
  attempt : Bool
  frameEnd : Bool
  deriving DecidableEq, Repr

/-- The state of the LC740, with the queue of commands that wait. -/
structure State where
  pending : List Instr
  /-- the time base in µs (log 1) -/
  now : Nat
  /-- MODEL'S OWN: free values drawn so far (log 16) -/
  freeCount : Nat
  due : Due
  book : Book
  images : ImageStore
  prices : PriceUnit
  sched : Scheduler
  engine : Engine
  cal : CalUnit
  transport : Transport
  cutter : Cutter
  monitor : Monitor
  sorter : Sorter
  ctl : LineCtl
  ports : Ports
  deriving DecidableEq, Repr

/-- Why the machine would stop with a fault: never. Every command has an effect in every state (an
error of a command is a reply, an error of the line is a cause in the fault set), so no constructor. -/
inductive Fault where
  deriving DecidableEq, Repr

/-- Why a command is not run. -/
inductive Refusal where
  /-- Raised by an arm of `exec` that has no meaning yet; safe. No arm of this model does. -/
  | notModelled (mnemonic : String)
  deriving DecidableEq, Repr

/-! ### Power-on values -/

/-- No hold reason. -/
def Holds.none : Holds := ⟨false, false, false, false⟩

/-- An order record while FREE (1.1, last column). -/
def Order.free : Order :=
  { number := 0, state := .free, origin := .kiosk1, service := .standard, indexRequested := false,
    promo := 0, sequence := none, holds := Holds.none, items := [], index := none, bins := [],
    lock := none, settled := none, paid := none, started := false, inspect := false }

/-- An image slot at power-on (1.8). -/
def ImageSlot.free : ImageSlot := { state := .free, size := none, refs := 0, pages := [] }

/-- A product entry at power-on (2.1). -/
def Product.powerOn : Product :=
  { enabled := false, geom := ⟨89, 76, .any⟩, base := 0, tiers := [] }

/-- The globals at power-on (2.1). -/
def Globals.powerOn : Globals :=
  { express := 0, promoMax := 0, indexPrice := 0, indexProduct := 0, minCharge := 0, tax := 0,
    cashStep := 1 }

/-- A price table at power-on (R32). -/
def PriceTable.powerOn : PriceTable := ⟨List.replicate 16 Product.powerOn, Globals.powerOn⟩

/-- The same value for each surface. -/
def PerSurface.all {α : Type} (x : α) : PerSurface α := ⟨x, x, x⟩

/-- The power-on curve (R80): round half up of (255 − v) × 127 / 255 at level v. -/
def powerOnCurve : List Nat := (List.range 256).map fun v => (2 * ((255 - v) * 127) + 255) / 510

/-- The power-on drive table (R81): 8 × L′. -/
def powerOnDrive : List Nat := (List.range 128).map (8 * ·)

/-- No correction. -/
def Corr.zero : Corr := ⟨0, 0⟩

/-- The exposure engine at power-on (chapter 4, state table). -/
def Engine.powerOn : Engine :=
  { work := .idle, curves := .all (.all powerOnCurve), drive := .all powerOnDrive,
    staged := .all (.all Corr.zero), live := .all (.all Corr.zero), hold := false, waiting := false,
    bpEnable := false, bpStart := 100, bpStop := 400, bpCounters := List.replicate 64 0,
    strobe := none, presented := .zero, strobed := [] }

/-- The calibration unit at power-on (chapter 5, state table). -/
def CalUnit.powerOn : CalUnit :=
  { trim := .all (List.replicate Config.headElements 1024),
    dead := .all (List.replicate Config.headElements false), calibrated := false, shortPtr := 0,
    pending := none, run := none, ref := .all 2048, pattern := false, test := none }

/-- A magazine slot at power-on with input levels `d`, `strip` and `e` (6.2, log 5). -/
def Mag.powerOn (d : Bool) (strip : Half) (e : Bool) : Mag :=
  { software := false, softPresent := false, debounced := false, ctx := none, remaining := .absent,
    endSeen := false, carry := 0, consumedTo := 0, resetEnable := true, rawStrip := 0,
    detect := d, detectSince := 0, strip := strip, endInput := e }

/-- The transport at power-on with the given slots (chapter 6, state tables). -/
def Transport.powerOn (m1 m2 : Mag) : Transport :=
  { position := 0, motor := false, indexRef := none, mismatches := 0, speed := none, lastCount := 0,
    pulseUs := none, matched := false, encoder := false, deadReckoning := none, probe := none,
    countsPerRev := 12000, speedNom := 100, revInUse := 12000, nomInUse := 100, threaded := none, changeover := none,
    m1 := m1, m2 := m2, lowMm := 3000, endLead := 150 }

/-- The cutter at power-on with input levels `mark` and `home` (chapter 7, state table; log 5). -/
def Cutter.powerOn (mark home : Bool) : Cutter :=
  { web := [], lastCut := none, lastMark := none, candidate := none, blade := .isIn,
    diverter := .chute, markPath := 11600, blank := 2000, markTol := 100, cutOffset := 400,
    cutDwell := 30, markInput := mark, homeInput := home }

/-- The monitor at power-on with the entrance input level `i` (chapter 8, state table; log 5). -/
def Monitor.powerOn (i : Bool) : Monitor :=
  { buckets := List.replicate 60 0, second := 0, budget := 12000, accumulator := 0, pulses := 0,
    pump := .idle, replUnit := 600, replPulse := 250, sheets := [], transit := 380, tol := 20,
    stop := none, sensor := false, input := i, inputSince := 0 }

/-- A free bin. -/
def Bin.free : Bin := ⟨.free, none, 0⟩

/-- A disabled window (R152). -/
def Window.disabled : Window := ⟨0, 0, .a⟩

/-- The sorter at power-on (R152). -/
def Sorter.powerOn : Sorter :=
  { bins := List.replicate 24 Bin.free, reject := 0, window1 := Window.disabled,
    window2 := Window.disabled, select := 0, gate := none }

/-- The empty fault set. -/
def FaultSet.none : FaultSet := ⟨false, false, false, false, false, false⟩

/-- The line controller at power-on; the standby timer runs from then (10.5 step 2). -/
def LineCtl.powerOn : LineCtl :=
  { line := .stopped, runEnable := false, pausePending := false, faults := FaultSet.none,
    timeout := 15, wakeCommit := true, wakeInsertion := true, wakeReprint := true,
    standbyTimer := some 0, wakeTimer := none, lastProbe := .none }

/-- A port at power-on (R176). -/
def PortState.powerOn : PortState := ⟨none, 0, 0, []⟩

/-- The scheduler at power-on (chapter 3, state table). -/
def Scheduler.powerOn : Scheduler :=
  { waitCause := .runEnable, request := none, framesSinceCal := 0, shortEvery := 200,
    flushTimer := none, flushDelay := 10, queueBlocked := false, deferred := false }

/-- No event of R53, R60 or R63 under way. -/
def Due.none : Due := ⟨false, false, false⟩

/-- Every block at its power-on values (R164), with the input levels that stand. -/
def State.powerOn (pending : List Instr) (freeCount : Nat) (frameValid : Bool) (m1 m2 : Mag)
    (mark home entrance : Bool) : State :=
  { pending := pending, now := 0, freeCount := freeCount, due := Due.none,
    book := ⟨List.replicate Config.orderRecords Order.free, [], 0⟩,
    images := ⟨List.replicate Config.imageSlots ImageSlot.free, none, frameValid, []⟩,
    prices := ⟨PriceTable.powerOn, PriceTable.powerOn, 0⟩,
    sched := Scheduler.powerOn, engine := Engine.powerOn, cal := CalUnit.powerOn,
    transport := Transport.powerOn m1 m2, cutter := Cutter.powerOn mark home,
    monitor := Monitor.powerOn entrance, sorter := Sorter.powerOn, ctl := LineCtl.powerOn,
    ports := ⟨PortState.powerOn, PortState.powerOn, PortState.powerOn⟩ }

/-- The machine right after power-on: inputs low but for the blade home input (log 5). -/
def State.reset : State :=
  State.powerOn [] 0 false (Mag.powerOn false 0 false) (Mag.powerOn false 0 false) false true false

end Sys2Proof.Machine
end

