-- ==== Sys2Proof/Machine/Ops.lean ====
section
/-! DEFINITION. Shared operations: the manual's arithmetic, list entries, the DRAM as memory, the time
base, and access to the fields that several families read or write. -/

namespace Sys2Proof.Machine

/-! ### Arithmetic (00 "Rounding", "Clamping") -/

/-- Round half up of x / y. -/
def roundHalfUp (x y : Nat) : Nat := (2 * x + y) / (2 * y)

/-- x / y rounded up. -/
def ceilDiv (x y : Nat) : Nat := (x + y - 1) / y

/-- clamp(v, a, b) over the integers, as a natural number. -/
def clampInt (v : Int) (a b : Nat) : Nat :=
  if v < (a : Int) then a else if (b : Int) < v then b else v.toNat

/-- The sum of a list. -/
def total (xs : List Nat) : Nat := xs.foldr (· + ·) 0

/-- The list with the entry at `i` changed. -/
def modAt {α : Type} (f : α → α) : List α → Nat → List α
  | [], _ => []
  | x :: xs, 0 => f x :: xs
  | x :: xs, i + 1 => x :: modAt f xs i

/-- A value of each channel. -/
def rgbGet {α : Type} (v : Rgb α) : Channel → α
  | .r => v.r
  | .g => v.g
  | .b => v.b

/-- The value of one channel changed. -/
def rgbMod {α : Type} (f : α → α) (v : Rgb α) : Channel → Rgb α
  | .r => { v with r := f v.r }
  | .g => { v with g := f v.g }
  | .b => { v with b := f v.b }

/-- Every channel's value through `f`. -/
def rgbMap {α β : Type} (f : α → β) (v : Rgb α) : Rgb β := ⟨f v.r, f v.g, f v.b⟩

/-- The value of one surface. -/
def surfaceGet {α : Type} (v : PerSurface α) : Surface → α
  | .gloss => v.gloss
  | .matte => v.matte
  | .lustre => v.lustre

/-- The value of one surface changed. -/
def surfaceMod {α : Type} (f : α → α) (v : PerSurface α) : Surface → PerSurface α
  | .gloss => { v with gloss := f v.gloss }
  | .matte => { v with matte := f v.matte }
  | .lustre => { v with lustre := f v.lustre }

/-! ### The DRAM (R27): a canonical list of (address, byte), an unlisted byte reads 0 (log 20) -/

/-- What an unlisted address reads as (log 20). -/
def Memory.unlisted : Byte := 0

/-- The byte at an address. -/
def Memory.read : List Host.Cell → Nat → Byte
  | [], _ => Memory.unlisted
  | (x, b) :: rest, a => if x = a then b else Memory.read rest a

/-- The memory with one byte written; the form stays canonical. -/
def Memory.write : List Host.Cell → Nat → Byte → List Host.Cell
  | [], a, b => if b = Memory.unlisted then [] else [(a, b)]
  | (x, c) :: rest, a, b =>
    if a < x then (if b = Memory.unlisted then (x, c) :: rest else (a, b) :: (x, c) :: rest)
    else if a = x then (if b = Memory.unlisted then rest else (a, b) :: rest)
    else (x, c) :: Memory.write rest a b

/-- Canonical form: addresses strictly rising, and no entry equal to an unlisted byte. -/
def Memory.wf : List Host.Cell → Bool
  | [] => true
  | (x, b) :: rest =>
    (b != Memory.unlisted) && (rest.head?.all fun c => decide (x < c.1)) && Memory.wf rest

/-- The DRAM address of byte `k` of a page list (R27); `none` beyond the list. -/
def pageAddress (pages : List Nat) (k : Nat) : Option Nat :=
  pages[k / Config.pageBytes]?.map fun p => p * Config.pageBytes + k % Config.pageBytes

/-- Byte `k` of an image's byte stream (R27). -/
def imageByte (dram : List Host.Cell) (pages : List Nat) (k : Nat) : Nat :=
  match pageAddress pages k with
  | some a => (Memory.read dram a).toNat
  | none => 0

/-! ### Time base (00 "Time", logs 1 and 2) -/

namespace State

/-- The time base in ms. -/
def ms (s : State) : Nat := s.now / 1000

/-- Dead reckoning counts running time: in force, motor forward, no clear probe (R114, R115). -/
def reckons (s : State) : Bool :=
  s.transport.deadReckoning.isSome && s.transport.motor && s.transport.probe.isNone

/-- The time base moves on by `us` µs, and with it the running time of dead reckoning (R114). The position
follows in `pass`. -/
def elapse (s : State) (us : Nat) : State :=
  if s.reckons then
    { s with
      now := s.now + us
      transport.deadReckoning := s.transport.deadReckoning.map fun d =>
        { d with runUs := d.runUs + us } }
  else { s with now := s.now + us }

/-! ### Fields that several families use -/

/-- The magazine slot's record. -/
def mag (s : State) : MagSlot → Mag
  | .m1 => s.transport.m1
  | .m2 => s.transport.m2

/-- A magazine slot's record changed. -/
def modMag (s : State) (f : Mag → Mag) : MagSlot → State
  | .m1 => { s with transport.m1 := f s.transport.m1 }
  | .m2 => { s with transport.m2 := f s.transport.m2 }

/-- An agent port's state. -/
def port (s : State) : Port → PortState
  | .order => s.ports.order
  | .till => s.ports.till
  | .line => s.ports.line

/-- An agent port's state changed. -/
def modPort (s : State) (f : PortState → PortState) : Port → State
  | .order => { s with ports.order := f s.ports.order }
  | .till => { s with ports.till := f s.ports.till }
  | .line => { s with ports.line := f s.ports.line }

/-- A frame is being written. -/
def writing (s : State) : Bool :=
  match s.engine.work with
  | .frame _ => true
  | _ => false

/-- The context of the frame being written. -/
def frame? (s : State) : Option FrameContext :=
  match s.engine.work with
  | .frame c => some c
  | _ => none

/-- The fault set is empty. -/
def noFault (s : State) : Bool := s.ctl.faults == FaultSet.none

/-- A scan event of R53. -/
def dueScan (s : State) : State := { s with due.scan := true }

/-- A frame start attempt event of R60. -/
def dueAttempt (s : State) : State := { s with due.attempt := true }

end State

end Sys2Proof.Machine
end

