-- ==== Sys2Proof/Machine/Operands.lean ====
section
/-! DEFINITION. The codes of chapter 12 (12.2, 12.5): what a field of a request names, and the bytes
that present a value in a reply. -/

namespace Sys2Proof.Machine

/-! ### Reading operands (12.2) -/

/-- yes, no; on, off. Any other byte names neither (log 8). -/
def yesNo (b : Byte) : Option Bool :=
  match b.toNat with
  | 0 => some false
  | 1 => some true
  | _ => none

/-- Origin of an order. -/
def originOf (b : Byte) : Option Origin :=
  match b.toNat with
  | 0 => some .kiosk1
  | 1 => some .kiosk2
  | 2 => some .kiosk3
  | 3 => some .kiosk4
  | 4 => some .counter
  | 5 => some .online
  | _ => none

/-- Service class. -/
def serviceOf (b : Byte) : Option Service :=
  match b.toNat with
  | 0 => some .standard
  | 1 => some .express
  | _ => none

/-- Product surface. -/
def productSurfaceOf (b : Byte) : Option ProductSurface :=
  match b.toNat with
  | 0 => some .any
  | 1 => some (.of .gloss)
  | 2 => some (.of .matte)
  | 3 => some (.of .lustre)
  | _ => none

/-- Paper surface. -/
def surfaceOf (b : Byte) : Option Surface :=
  match b.toNat with
  | 1 => some .gloss
  | 2 => some .matte
  | 3 => some .lustre
  | _ => none

/-- Width in mm of a width code. -/
def widthOf (code : Nat) : Option Nat :=
  match code with
  | 1 => some 89
  | 2 => some 102
  | 3 => some 127
  | 4 => some 152
  | 5 => some 203
  | 6 => some 210
  | 7 => some 254
  | 8 => some 305
  | _ => none

/-- Channel. -/
def channelOf (b : Byte) : Option Channel :=
  match b.toNat with
  | 0 => some .r
  | 1 => some .g
  | 2 => some .b
  | _ => none

/-- Magazine slot. -/
def magSlotOf (b : Byte) : Option MagSlot :=
  match b.toNat with
  | 1 => some .m1
  | 2 => some .m2
  | _ => none

/-- Mirror option. -/
def mirrorOf (b : Byte) : Option Mirror :=
  match b.toNat with
  | 0 => some ⟨false, false⟩
  | 1 => some ⟨true, false⟩
  | 2 => some ⟨false, true⟩
  | 3 => some ⟨true, true⟩
  | _ => none

/-- Calibration kind; 0 is refused (12.7). -/
def calKindOf (b : Byte) : Option CalKind :=
  match b.toNat with
  | 1 => some .short
  | 2 => some .long
  | _ => none

/-- Bank. -/
def bankOf (b : Byte) : Option Bank :=
  match b.toNat with
  | 0 => some .a
  | 1 => some .b
  | _ => none

/-- State selector of ORDER_LIST; FREE is refused (R181). -/
def orderStateOf (b : Byte) : Option OrderState :=
  match b.toNat with
  | 1 => some .opened
  | 2 => some .queued
  | 3 => some .active
  | 4 => some .held
  | 5 => some .draining
  | 6 => some .ready
  | 7 => some .void
  | _ => none

/-- A signed byte within −b..b. -/
def signedWithin (x : Byte) (b : Nat) : Option Int :=
  if x.toInt < -(b : Int) then none else if (b : Int) < x.toInt then none else some x.toInt

/-- Three signed bytes within −b..b. -/
def rgbSignedWithin (v : Rgb Byte) (b : Nat) : Option (Rgb Int) :=
  match signedWithin v.r b, signedWithin v.g b, signedWithin v.b b with
  | some r, some g, some x => some ⟨r, g, x⟩
  | _, _, _ => none

/-- A value within lo..hi. -/
def within (x lo hi : Nat) : Bool := decide (lo ≤ x) && decide (x ≤ hi)

/-- Remaining length: 0..999,999 mm, or all ones for unknown. -/
def remainingOf (x : Wide) : Option Remaining :=
  if x.toNat = 4294967295 then some .unknown
  else if x.toNat ≤ 999999 then some (.mm x.toNat) else none

/-- The three paper surfaces by the code on a magazine's strip (12.5). -/
def stripSurface (code : Nat) : Option Surface :=
  match code with
  | 0 => some .gloss
  | 1 => some .matte
  | 2 => some .lustre
  | _ => none

/-- A magazine's code strip decoded (R118, 12.5); `none` when either code is invalid. -/
def stripContext (strip : Half) : Option MagContext :=
  match widthOf (strip.extractLsb' 0 4).toNat, stripSurface (strip.extractLsb' 4 2).toNat with
  | some w, some f => some ⟨w, f, (strip.extractLsb' 6 10).toNat⟩
  | _, _ => none

/-! ### Presenting values (R185: little-endian, absent as 0, times modulo 2^32) -/

/-- One byte. -/
def byte (n : Nat) : Byte := BitVec.ofNat 8 n

/-- Two bytes. -/
def le16 (n : Nat) : List Byte := [byte n, byte (n / 256)]

/-- Four bytes. -/
def le32 (n : Nat) : List Byte := [byte n, byte (n / 256), byte (n / 65536), byte (n / 16777216)]

/-- Six bytes. -/
def le48 (n : Nat) : List Byte := le32 n ++ le16 (n / 4294967296)

/-- One signed byte. -/
def signedByte (x : Int) : Byte := BitVec.ofInt 8 x

/-- Two signed bytes. -/
def signed16 (x : Int) : List Byte := halfBytes (BitVec.ofInt 16 x)

/-- no 0, yes 1. -/
def flag (b : Bool) : Byte := if b then 1 else 0

/-- A byte of bits, bit 0 first. -/
def bits : List Bool → Nat
  | [] => 0
  | b :: rest => (if b then 1 else 0) + 2 * bits rest

/-- An absent number presented as 0. -/
def orZero (x : Option Nat) : Nat := x.getD 0

/-- Order state code. -/
def orderStateCode : OrderState → Nat
  | .free => 0
  | .opened => 1
  | .queued => 2
  | .active => 3
  | .held => 4
  | .draining => 5
  | .ready => 6
  | .void => 7

/-- Origin code. -/
def originCode : Origin → Nat
  | .kiosk1 => 0
  | .kiosk2 => 1
  | .kiosk3 => 2
  | .kiosk4 => 3
  | .counter => 4
  | .online => 5

/-- Service code. -/
def serviceCode : Service → Nat
  | .standard => 0
  | .express => 1

/-- Paper surface code. -/
def surfaceCode : Surface → Nat
  | .gloss => 1
  | .matte => 2
  | .lustre => 3

/-- Product surface code. -/
def productSurfaceCode : ProductSurface → Nat
  | .any => 0
  | .of f => surfaceCode f

/-- Width code of a width in mm. -/
def widthCode (mm : Nat) : Nat :=
  if mm = 89 then 1 else if mm = 102 then 2 else if mm = 127 then 3 else if mm = 152 then 4
  else if mm = 203 then 5 else if mm = 210 then 6 else if mm = 254 then 7
  else if mm = 305 then 8 else 0

/-- Record kind code of a frame or sheet. -/
def frameKindCode : FrameKind → Nat
  | .print => 1
  | .index => 2
  | .test => 3

/-- Record kind code of a web record. -/
def recordKindCode : RecordKind → Nat
  | .print => 1
  | .index => 2
  | .test => 3
  | .waste => 4
  | .closing => 5

/-- Line state code. -/
def lineStateCode : LineState → Nat
  | .stopped => 0
  | .exposing => 1
  | .flushing => 2
  | .changeover => 3
  | .calibrating => 4
  | .standby => 5
  | .waking => 6
  | .fault => 7

/-- Wait cause code. -/
def waitCauseCode : WaitCause → Nat
  | .none => 0
  | .runEnable => 1
  | .lineState => 2
  | .calibration => 3
  | .listRoom => 4
  | .processor => 5

/-- Calibration kind code, 0 for none. -/
def calKindCode : Option CalKind → Nat
  | none => 0
  | some .short => 1
  | some .long => 2

/-- Engine state code. -/
def engineCode : EngineWork → Nat
  | .idle => 0
  | .frame _ => 1
  | .closing _ _ => 2

/-- Blade code. -/
def bladeCode : Blade → Nat
  | .isIn => 0
  | .down _ _ => 1
  | .returning _ => 2
  | .stuck => 3

/-- Diverter code. -/
def diverterCode : Diverter → Nat
  | .chute => 0
  | .processor => 1

/-- Clear probe result code. -/
def probeCode : ProbeResult → Nat
  | .none => 0
  | .running => 1
  | .passed => 2
  | .failed => 3

/-- Magazine slot code, 0 for none. -/
def magSlotCode : Option MagSlot → Nat
  | none => 0
  | some .m1 => 1
  | some .m2 => 2

/-- Magazine slot state code. -/
def magStateCode : MagState → Nat
  | .absent => 0
  | .unusable => 1
  | .ready => 2
  | .active => 3
  | .low => 4
  | .empty => 5

/-- Bin state code. -/
def binStateCode : BinState → Nat
  | .free => 0
  | .reserved => 1
  | .filling => 2
  | .complete => 3
  | .purge => 4

/-- Bank code. -/
def bankCode : Bank → Nat
  | .a => 0
  | .b => 1

/-- Hold reasons (12.2). -/
def holdsCode (h : Holds) : Nat := bits [h.till, h.operator, h.paper, h.fault]

/-- Fault set (12.2). -/
def faultsCode (f : FaultSet) : Nat :=
  bits [f.paperBreak, f.jam, f.encoder, f.cutter, f.head, f.rejectFull]

/-- The fault set FAULT_CLEAR's operand names; bits 6 and 7 name nothing and are not read (R185, log 9). -/
def faultsOf (b : Byte) : FaultSet :=
  { paperBreak := b.getLsbD 0, jam := b.getLsbD 1, encoder := b.getLsbD 2, cutter := b.getLsbD 3,
    head := b.getLsbD 4, rejectFull := b.getLsbD 5 }

/-- Remaining length (12.2): absent 0, unknown all ones. -/
def remainingCode : Remaining → Nat
  | .absent => 0
  | .unknown => 4294967295
  | .mm n => n

/-- Result codes, numbered in the order of R180 (R185). -/
def statusCode : Status → Nat
  | .ok => 0
  | .accepted => 1
  | .eFormat => 2
  | .eRole => 3
  | .eRange => 4
  | .eState => 5
  | .eNoOrder => 6
  | .eFull => 7
  | .eLimit => 8
  | .eDuplicate => 9
  | .eEmpty => 10
  | .eImage => 11
  | .eSize => 12
  | .eProduct => 13
  | .eQuantity => 14
  | .eInUse => 15
  | .eMemory => 16
  | .eBusy => 17
  | .eTable => 18
  | .eShortPay => 19
  | .ePaid => 20

/-- The result code NONE (R185). -/
def statusNone : Nat := 255

end Sys2Proof.Machine
end

