-- ==== Sys2Proof/Machine/Flags.lean ====
section
/-! DEFINITION. The fourteen flags (11.3, 12.6): edge flags, the conditions of the level flags, and the
attention outputs; and the derived states that conditions rest on (magazine slots, R116). -/

namespace Sys2Proof.Machine

/-- The flags (12.6). -/
inductive Flag where
  | orderReady | orderHeld | orderFreed | imageDone | imageFault | pricesActivated | calDone
  | calFailed | inspect | lineFault | paperLow | binAttention | standby | queueBlocked
  deriving DecidableEq, Repr

/-- A flag's bit in the flag word (12.6). -/
def flagBit : Flag → Nat
  | .orderReady => 0
  | .orderHeld => 1
  | .orderFreed => 2
  | .imageDone => 3
  | .imageFault => 4
  | .pricesActivated => 5
  | .calDone => 6
  | .calFailed => 7
  | .inspect => 8
  | .lineFault => 9
  | .paperLow => 10
  | .binAttention => 11
  | .standby => 12
  | .queueBlocked => 13

/-- The word with only that flag set. -/
def flagMask (f : Flag) : Half := BitVec.ofNat 16 (2 ^ flagBit f)

/-- The bits that name a flag (12.6). -/
def flagBits : Half := 0x3fff

/-- Set the flags of a word in the copy of every port (R182). -/
def Ports.setFlags (p : Ports) (m : Half) : Ports :=
  { order := { p.order with flags := p.order.flags ||| m }
    till := { p.till with flags := p.till.flags ||| m }
    line := { p.line with flags := p.line.flags ||| m } }

/-- A magazine is present (R117): by the detect mode's source. -/
def Mag.present (m : Mag) : Bool := if m.software then m.softPresent else m.debounced

/-- The remaining length is known and below `n`. -/
def Remaining.below (r : Remaining) (n : Nat) : Bool :=
  match r with
  | .mm k => decide (k < n)
  | _ => false

namespace State

/-- An event of an edge flag (R182). -/
def raise (s : State) (f : Flag) : State := { s with ports := s.ports.setFlags (flagMask f) }

/-- The state of a magazine slot (R116). -/
def magState (s : State) (m : MagSlot) : MagState :=
  let g := s.mag m
  if !g.present then .absent
  else if g.ctx.isNone then .unusable
  else if g.endSeen && g.remaining == .mm 0 then .empty
  else if g.remaining.below s.transport.lowMm then .low
  else if s.transport.threaded == some m then .active
  else .ready

/-- The slot is LOW or EMPTY. -/
def magLow (s : State) (m : MagSlot) : Bool :=
  match s.magState m with
  | .low | .empty => true
  | _ => false

/-- The condition of a level flag (11.3); an edge flag has none. -/
def condition (s : State) : Flag → Bool
  | .lineFault => !s.noFault
  | .paperLow => s.magLow .m1 || s.magLow .m2
  | .binAttention => s.sorter.bins.any (fun b => b.state == .purge) || decide (0 < s.sorter.reject)
  | .standby => s.ctl.line == .standby
  | .queueBlocked => s.sched.queueBlocked
  | _ => false

/-- The bit of a level flag when its condition holds. -/
def conditionBit (s : State) (f : Flag) : Half := if s.condition f then flagMask f else 0

/-- The condition word (R183). -/
def conditionWord (s : State) : Half :=
  s.conditionBit .lineFault ||| s.conditionBit .paperLow ||| s.conditionBit .binAttention |||
    s.conditionBit .standby ||| s.conditionBit .queueBlocked

/-- Each level flag is set in every copy while its condition holds (R182). -/
def syncFlags (s : State) : State := { s with ports := s.ports.setFlags s.conditionWord }

/-- A port's attention output (R184). -/
def attention (s : State) (p : Port) : Bool := (s.port p).flags &&& (s.port p).enables != 0

end State

end Sys2Proof.Machine
end

