-- ==== Sys2Proof/Machine/Bins.lean ====
section
/-! DEFINITION. The order bins (9.1 to 9.5) as other blocks act on them: banks, routing, completion,
reopening, and giving bins up. -/

namespace Sys2Proof.Machine

/-- The bank of bin b, b = 1..24 (9.1). -/
def bankOfBin (b : Nat) : Bank := if b ≤ 16 then .a else .b

/-- A window is enabled and covers the number (R154). -/
def Window.covers (w : Window) (number : Nat) : Bool :=
  decide (0 < w.limit) && decide (w.base ≤ number) && decide (1 ≤ number) && decide (number ≤ w.limit)

/-- The bank an order draws from (R154). -/
def Sorter.bankFor (t : Sorter) (number : Nat) : Bank :=
  if t.window1.covers number then t.window1.bank
  else if t.window2.covers number then t.window2.bank else .a

/-- Bin b. -/
def Sorter.bin (t : Sorter) (b : Nat) : Bin :=
  if b = 0 then Bin.free else t.bins.getD (b - 1) Bin.free

/-- The FREE bins of a bank, lowest number first (R155). -/
def Sorter.freeBins (t : Sorter) (k : Bank) : List Nat :=
  ((List.range 24).map (· + 1)).filter fun b => (t.bin b).state == .free && bankOfBin b == k

/-- A list of bins each changed. -/
def Sorter.modBins (t : Sorter) (f : Bin → Bin) (bs : List Nat) : Sorter :=
  { t with bins := bs.foldl (fun acc b => if b = 0 then acc else modAt f acc (b - 1)) t.bins }

/-- A COMPLETE bin when its owner is reprinted (R159). -/
def Bin.reopen (b : Bin) : Bin :=
  if b.state == .complete then { b with state := if b.count = 0 then .reserved else .filling } else b

/-- A bin when its owner is cancelled (R161). -/
def Bin.give (b : Bin) : Bin :=
  if b.count = 0 then Bin.free else { b with state := .purge, owner := none }

namespace State

/-- Each bin of the list becomes COMPLETE (R159). -/
def completeBins (s : State) (bs : List Nat) : State :=
  { s with sorter := s.sorter.modBins (fun b => { b with state := .complete }) bs }

/-- Each COMPLETE bin of the list goes back to FILLING or RESERVED (R159). -/
def reopenBins (s : State) (bs : List Nat) : State :=
  { s with sorter := s.sorter.modBins Bin.reopen bs }

/-- Each bin of the list becomes FREE: collection and withdrawal (R160). A scan event when there is one. -/
def freeBinList (s : State) (bs : List Nat) : State :=
  let s := { s with sorter := s.sorter.modBins (fun _ => Bin.free) bs }
  if bs.isEmpty then s else s.dueScan

/-- Each bin of the list becomes FREE or PURGE by its count: cancellation (R161). A scan event when one
becomes FREE. -/
def giveBinList (s : State) (bs : List Nat) : State :=
  let freed := bs.any fun b => (s.sorter.bin b).count == 0
  let s := { s with sorter := s.sorter.modBins Bin.give bs }
  if freed then s.dueScan else s

end State

end Sys2Proof.Machine
end

