-- ==== Sys2Proof/Machine/Book.lean ====
section
/-! DEFINITION. The order book (chapter 1): finding records, the print queue, the moves of an order
between its states, holds, the counter moves, and the return of a record to FREE. -/

namespace Sys2Proof.Machine

/-! ### Records -/

/-- The counters of every item, then of the index pseudo-item. -/
def Order.counts (o : Order) : List Counts := o.items.map (·.n) ++ (o.index.map (·.n)).toList

/-- Σ of a counter over the items and the index. -/
def Order.sum (o : Order) (f : Counts → Nat) : Nat := total (o.counts.map f)

/-- The counters of an item position, 0 the index (1.2). -/
def Order.countsAt (o : Order) (item : Nat) : Option Counts :=
  if item = 0 then o.index.map (·.n) else o.items[item - 1]?.map (·.n)

/-- The counters of an item position changed. -/
def Order.modCounts (o : Order) (item : Nat) (f : Counts → Counts) : Order :=
  if item = 0 then { o with index := o.index.map fun x => { x with n := f x.n } }
  else { o with items := modAt (fun x => { x with n := f x.n }) o.items (item - 1) }

/-- The counters of every item and of the index changed. -/
def Order.mapCounts (o : Order) (f : Counts → Counts) : Order :=
  { o with
    items := o.items.map fun x => { x with n := f x.n }
    index := o.index.map fun x => { x with n := f x.n } }

/-- A record is live in every state but FREE. -/
def Order.live (o : Order) : Bool := o.state != .free

/-- No hold reason remains. -/
def Holds.isEmpty (h : Holds) : Bool := !(h.till || h.operator || h.paper || h.fault)

/-- A reason is present. -/
def Holds.has (h : Holds) : Hold → Bool
  | .till => h.till
  | .operator => h.operator
  | .paper => h.paper
  | .fault => h.fault

/-- The set with a reason added. -/
def Holds.add (h : Holds) : Hold → Holds
  | .till => { h with till := true }
  | .operator => { h with operator := true }
  | .paper => { h with paper := true }
  | .fault => { h with fault := true }

/-- Index of the first record that satisfies `p`. -/
def firstRecord (p : Order → Bool) : List Order → Option Nat
  | [] => none
  | o :: rest => if p o then some 0 else (firstRecord p rest).map (· + 1)

/-- Order a stands before order b in the print queue (R23). -/
def Order.ahead (a b : Order) : Bool :=
  match a.service, b.service with
  | .express, .standard => true
  | .standard, .express => false
  | _, _ => decide (orZero a.sequence < orZero b.sequence)

/-- The queue with record i at its place (R23). -/
def insertQueue (recs : List Order) (i : Nat) : List Nat → List Nat
  | [] => [i]
  | j :: rest =>
    if (recs.getD i Order.free).ahead (recs.getD j Order.free) then i :: j :: rest
    else j :: insertQueue recs i rest

/-- One more item reference of an image slot (R27). -/
def ImageStore.addRef (m : ImageStore) (slot : Nat) : ImageStore :=
  { m with slots := modAt (fun x => { x with refs := x.refs + 1 }) m.slots slot }

/-- One item reference of an image slot less (R27). -/
def ImageStore.dropRef (m : ImageStore) (slot : Nat) : ImageStore :=
  { m with slots := modAt (fun x => { x with refs := x.refs - 1 }) m.slots slot }

namespace State

/-- Record i; FREE beyond the table. -/
def orderAt (s : State) (i : Nat) : Order := s.book.records.getD i Order.free

/-- Record i changed. -/
def modOrder (s : State) (i : Nat) (f : Order → Order) : State :=
  { s with book.records := modAt f s.book.records i }

/-- The live record that holds a number. -/
def findLive (s : State) (number : Nat) : Option Nat :=
  firstRecord (fun o => o.live && o.number == number) s.book.records

/-- The current order: the record in state ACTIVE (R52). -/
def current (s : State) : Option Nat := firstRecord (fun o => o.state == .active) s.book.records

/-- Item records in use (R3). -/
def itemsUsed (s : State) : Nat := total (s.book.records.map fun o => o.items.length)

/-- Record i enters the print queue at its place; a scan event (R53). -/
def enqueue (s : State) (i : Nat) : State :=
  { s with
    book.queue := insertQueue s.book.records i s.book.queue
    due.scan := true }

/-- Record i leaves the print queue; an empty queue ends the queue blocked condition (R55). -/
def dequeue (s : State) (i : Nat) : State :=
  let q := s.book.queue.filter (· != i)
  { s with
    book.queue := q
    sched.queueBlocked := s.sched.queueBlocked && !q.isEmpty }

/-- What leaving a state brings: QUEUED leaves the queue, ACTIVE opens the boundary (R23, R24). -/
def leaveState (s : State) (i : Nat) : OrderState → State
  | .queued => s.dequeue i
  | .active => s.dueScan
  | _ => s

/-- What entering a state brings: the queue place, ORDER_HELD, ORDER_READY with COMPLETE bins. -/
def enterState (s : State) (i : Nat) : OrderState → State
  | .queued => s.enqueue i
  | .held => s.raise .orderHeld
  | .ready => (s.raise .orderReady).completeBins (s.orderAt i).bins
  | _ => s

/-- Record i moves to another state (1.4), with what leaving and entering bring. -/
def setOrderState (s : State) (i : Nat) (st : OrderState) : State :=
  let old := (s.orderAt i).state
  ((s.modOrder i fun o => { o with state := st }).leaveState i old).enterState i st

/-- Record i returns to FREE (R18). The bins have been dealt with. -/
def freeOrder (s : State) (i : Nat) : State :=
  let items := (s.orderAt i).items
  let s := s.setOrderState i .free
  let s := { s with images := items.foldl (fun m (x : Item) => m.dropRef x.slot) s.images }
  (s.modOrder i fun _ => Order.free).raise .orderFreed

/-- The state an order takes from its counters: QUEUED, DRAINING or READY (R21, R25). -/
def stateByCounts (o : Order) : OrderState :=
  if 0 < o.sum (·.p) then .queued else if 0 < o.sum (·.w) then .draining else .ready

/-! ### Holds (1.5) -/

/-- A frame of record i is being exposed. -/
def exposes (s : State) (i : Nat) : Bool :=
  match s.frame? with
  | some c => (c.target.map (·.record)) == some i
  | none => false

/-- When a reason just added to record i makes it HELD at once (R20). -/
def holdActs (s : State) (i : Nat) (r : Hold) : Bool :=
  match (s.orderAt i).state with
  | .queued | .draining => true
  | .active => !s.exposes i || r == .paper || r == .fault
  | _ => false

/-- A hold reason is added to record i and takes effect (R19, R20); a reason already present changes
nothing. -/
def addHold (s : State) (i : Nat) (r : Hold) : State :=
  if (s.orderAt i).holds.has r then s
  else
    let s := s.modOrder i fun o => { o with holds := o.holds.add r }
    if s.holdActs i r then s.setOrderState i .held else s

/-- Record i leaves HELD when its reason set is empty (R21). -/
def leaveHeld (s : State) (i : Nat) : State :=
  let o := s.orderAt i
  if o.state == .held && o.holds.isEmpty then s.setOrderState i (stateByCounts o) else s

/-- PAPER is removed from one record (R22). -/
def releasePaper1 (s : State) (i : Nat) : State :=
  if (s.orderAt i).live && (s.orderAt i).holds.paper then
    (s.modOrder i fun o => { o with holds.paper := false }).leaveHeld i
  else s

/-- PAPER is removed from every live order that holds it, in ascending record index (R22). -/
def releasePaper (s : State) : State :=
  (List.range Config.orderRecords).foldl releasePaper1 s

/-! ### Counter moves (1.3) -/

/-- The counters of one item of record i changed. -/
def moveCounts (s : State) (i item : Nat) (f : Counts → Counts) : State :=
  s.modOrder i fun o => o.modCounts item f

/-- R9's look at the record after a delivery, discard or spoil. -/
def afterMove (s : State) (i : Nat) : State :=
  let o := s.orderAt i
  match o.state with
  | .draining => if o.sum (·.w) = 0 && o.sum (·.p) = 0 then s.setOrderState i .ready else s
  | .void => if o.sum (·.w) = 0 then s.freeOrder i else s
  | _ => s

/-- A print of a VOID order is discarded or spoiled: w to s (R9, R10). -/
def discard (s : State) (i item : Nat) : State :=
  (s.moveCounts i item fun n => { n with w := n.w - 1, s := n.s + 1 }).afterMove i

/-- A print of an order that is not VOID is spoiled: w to p, the spoil count rises, saturating at 4, and at
4 adds FAULT; a DRAINING order is queued again (R10). -/
def spoilLive (s : State) (i item : Nat) : State :=
  let s := s.moveCounts i item fun n =>
    { n with w := n.w - 1, p := n.p + 1, spoil := min 4 (n.spoil + 1) }
  if ((s.orderAt i).countsAt item).any (fun n => n.spoil == 4) then s.addHold i .fault
  else if (s.orderAt i).state == .draining then s.setOrderState i .queued
  else s

/-- A spoil of one print (R10). -/
def spoil (s : State) (x : OrderItem) : State :=
  match s.findLive x.number with
  | none => s
  | some i => if (s.orderAt i).state == .void then s.discard i x.item else s.spoilLive i x.item

/-- A spoil where there is a print to spoil. -/
def spoil? (s : State) : Option OrderItem → State
  | some x => s.spoil x
  | none => s

end State

end Sys2Proof.Machine
end

