-- ==== Sys2Proof/Machine/Pricing.lean ====
section
/-! DEFINITION. Money arithmetic, tier selection, the quote and the settlement (chapter 2). -/

namespace Sys2Proof.Machine

/-- A money value bounded at 99,999,999 (R38). -/
def bounded (x : Nat) : Nat := min x Config.moneyBound

/-- The unit price for n prints: the highest tier reached, else P0 (R39). -/
def unitPrice (base : Nat) (tiers : List Tier) (n : Nat) : Nat :=
  tiers.foldl (fun u k => if k.qty ≤ n then k.price else u) base

/-- Stages 2..8 of R40 and R45 from the product charges Up × N, each a whole. `index` is the index
price when it is charged, else 0; `promo` is the clamped promo. -/
def breakdown (charges : List Nat) (index : Nat) (gl : Globals) (express : Bool) (promo : Nat) :
    Breakdown :=
  let g := bounded (total (charges.map bounded) + index)
  let e := if express then bounded (roundHalfUp (g * gl.express) 1000) else 0
  let d := roundHalfUp ((g + e) * promo) 1000
  let n := if g = 0 then 0 else bounded (max (bounded (g + e - d)) gl.minCharge)
  let t := bounded (roundHalfUp (n * gl.tax) 10000)
  let a := bounded (n + t)
  let f := bounded ((2 * a + gl.cashStep) / (2 * gl.cashStep) * gl.cashStep)
  { g, e, d, n, t, a, f }

/-- The distinct members of a list in order of first occurrence. -/
def distinct : List Nat → List Nat
  | [] => []
  | x :: xs => x :: (distinct xs).filter (· != x)

/-- Product p of a table. -/
def PriceTable.product (t : PriceTable) (p : Nat) : Product := t.products.getD p Product.powerOn

/-- The order's products in order of first use. -/
def Order.products (o : Order) : List Nat := distinct (o.items.map (·.product))

/-- Σ of a per-item number over the items of product p. -/
def Order.sumOf (o : Order) (p : Nat) (f : Item → Nat) : Nat :=
  total ((o.items.filter fun x => x.product == p).map f)

/-- Stage 1 of R40 as lock entries (R41). -/
def lockEntries (t : PriceTable) (o : Order) : List LockEntry :=
  o.products.map fun p =>
    let np := o.sumOf p (·.n.q)
    let r := t.product p
    { product := p, np := np, up := unitPrice r.base r.tiers np, geom := r.geom }

/-- The quote of an order with promo already clamped (R40). -/
def quote (t : PriceTable) (o : Order) : Breakdown :=
  breakdown ((lockEntries t o).map fun l => l.up * l.np)
    (if o.indexRequested then t.globals.indexPrice else 0) t.globals (o.service == .express) o.promo

/-- The price lock of an order (R41). -/
def priceLock (u : PriceUnit) (o : Order) : Lock :=
  { generation := u.generation
    entries := lockEntries u.active o
    indexGeom :=
      if o.indexRequested then some (u.active.product u.active.globals.indexProduct).geom else none
    globals := u.active.globals
    quote := quote u.active o }

/-- The charged quantity of an item (R44). -/
def charged (n : Counts) : Nat := n.q - n.s

/-- The index is charged (R44). -/
def Order.indexCharged (o : Order) : Bool :=
  match o.index with
  | some x => charged x.n == 1
  | none => false

/-- The settlement of a READY order from its lock (R45). -/
def settlement (l : Lock) (o : Order) : Settled :=
  let cs := l.entries.map fun e => o.sumOf e.product (fun x => charged x.n)
  { values :=
      breakdown (List.zipWith (fun (e : LockEntry) c => e.up * c) l.entries cs)
        (if o.indexCharged then l.globals.indexPrice else 0) l.globals (o.service == .express) o.promo
    charged := cs
    indexCharged := o.indexCharged }

/-- The settlement of a VOID order (R43). -/
def voidSettlement (l : Lock) : Settled :=
  { values := ⟨0, 0, 0, 0, 0, 0, 0⟩, charged := l.entries.map fun _ => 0, indexCharged := false }

/-- Every Qk in 2..9,999, and rising (R34). -/
def tiersRise : List Tier → Bool
  | [] => true
  | k :: rest =>
    within k.qty 2 9999 && (rest.head?.all fun j => decide (k.qty < j.qty)) && tiersRise rest

/-- Every Pk in 0..50,000, none above the price before it (R34). -/
def pricesFall (p : Nat) : List Tier → Bool
  | [] => true
  | k :: rest => decide (k.price ≤ 50000) && decide (k.price ≤ p) && pricesFall k.price rest

/-- The tiers of an entry satisfy R34. -/
def tiersValid (base : Nat) (tiers : List Tier) : Bool := tiersRise tiers && pricesFall base tiers

/-- The geometry of a committed order's frame: the lock entry of the item's product, or the index
geometry for item 0 (R42). -/
def Order.frameGeom (o : Order) (item : Nat) : Option Geometry :=
  match o.lock with
  | none => none
  | some l =>
    if item = 0 then l.indexGeom
    else match o.items[item - 1]? with
      | none => none
      | some x => (l.entries.find? fun e => e.product == x.product).map (·.geom)

end Sys2Proof.Machine
end

