-- ==== Sys2Proof/Machine/Images.lean ====
section
/-! DEFINITION. The image store (1.8): pages, the end of a load, and the removal of items. -/

namespace Sys2Proof.Machine

/-- Pages an image of that size takes (R28). -/
def pagesFor (width height : Nat) : Nat := ceilDiv (width * height * 3) Config.pageBytes

/-- Words a load of that size takes (R29). -/
def wordsFor (size : ImageSize) : Nat := ceilDiv (3 * size.width * size.height) 2

/-- Image slot k; FREE beyond the table. -/
def ImageStore.slot (m : ImageStore) (k : Nat) : ImageSlot := m.slots.getD k ImageSlot.free

/-- Slot k changed. -/
def ImageStore.modSlot (m : ImageStore) (k : Nat) (f : ImageSlot → ImageSlot) : ImageStore :=
  { m with slots := modAt f m.slots k }

/-- The pages in some slot's list (R27). -/
def ImageStore.allocated (m : ImageStore) : List Nat := m.slots.flatMap (·.pages)

/-- Free pages: what no slot's list holds (R27). -/
def ImageStore.freePages (m : ImageStore) : Nat := Config.dramPages - m.allocated.length

/-- The `n` lowest page numbers from `p` on that are not in `used`; `fuel` bounds the walk. -/
def lowestFree (used : List Nat) : (fuel n p : Nat) → List Nat
  | 0, _, _ => []
  | _ + 1, 0, _ => []
  | fuel + 1, n + 1, p =>
    if used.contains p then lowestFree used fuel (n + 1) (p + 1)
    else p :: lowestFree used fuel n (p + 1)

/-- The pages an accepted load takes: the `n` lowest-numbered free ones (R27). -/
def ImageStore.take (m : ImageStore) (n : Nat) : List Nat :=
  lowestFree m.allocated (n + m.allocated.length) n 0

/-- The order without item position `item`, 1..number of items (R5). -/
def Order.dropItem (o : Order) (item : Nat) : Order :=
  { o with items := o.items.eraseIdx (item - 1) }

/-- The order without the items of an image slot (R30). -/
def Order.dropSlot (o : Order) (slot : Nat) : Order :=
  { o with items := o.items.filter fun x => x.slot != slot }

namespace State

/-- The items of OPEN orders that name a slot are removed; the slot's reference count falls by their
number (R30). -/
def removeSlotItems (s : State) (slot : Nat) : State :=
  let hit (o : Order) : Nat :=
    if o.state == .opened then (o.items.filter fun x => x.slot == slot).length else 0
  let n := total (s.book.records.map hit)
  { s with
    images := s.images.modSlot slot fun x => { x with refs := x.refs - n }
    book.records := s.book.records.map fun o => if o.state == .opened then o.dropSlot slot else o }

/-- A slot goes FREE: its pages return to the pool and its size becomes none (R30, R31). -/
def freeSlot (s : State) (slot : Nat) : State :=
  { s with images := s.images.modSlot slot fun x => { x with state := .free, size := none, pages := [] } }

/-- A load ends in a fault or is aborted: slot FREE, no load in flight, IMAGE_FAULT (R30, R31). -/
def loadFault (s : State) (slot : Nat) : State :=
  (({ s with images.load := none }.removeSlotItems slot).freeSlot slot).raise .imageFault

/-- The load ends with the slot LOADED (R30). -/
def loadDone (s : State) (slot : Nat) : State :=
  { s with
    images := { s.images.modSlot slot fun x => { x with state := .loaded } with load := none } }.raise
    .imageDone

/-- Byte k of the byte stream of a load is stored (R27, R29). -/
def storeByte (s : State) (pages : List Nat) (k : Nat) (b : Byte) : State :=
  match pageAddress pages k with
  | some a => { s with images.dram := Memory.write s.images.dram a b }
  | none => s

end State

end Sys2Proof.Machine
end

