-- ==== Sys2Proof/Machine/Line.lean ====
section
/-! DEFINITION. The line state, the motor, the fault set (chapter 10), the copy of the corrections that
leaving EXPOSING makes (R86), and the start of a calibration (R97). -/

namespace Sys2Proof.Machine

/-- A cause is in the set. -/
def FaultSet.has (f : FaultSet) : Cause → Bool
  | .paperBreak => f.paperBreak
  | .jam => f.jam
  | .encoder => f.encoder
  | .cutter => f.cutter
  | .head => f.head
  | .rejectFull => f.rejectFull

/-- The set with a cause in it, or not. -/
def FaultSet.put (f : FaultSet) (v : Bool) : Cause → FaultSet
  | .paperBreak => { f with paperBreak := v }
  | .jam => { f with jam := v }
  | .encoder => { f with encoder := v }
  | .cutter => { f with cutter := v }
  | .head => { f with head := v }
  | .rejectFull => { f with rejectFull := v }

namespace State

/-- Whether the motor runs forward (R110). -/
def motorWanted (s : State) : Bool :=
  match s.ctl.line with
  | .exposing => true
  | .flushing => s.noFault
  | .fault => s.writing || s.transport.probe.isSome
  | _ => s.transport.probe.isSome

/-- The motor follows R110. A motor start clears the measured speed, begins the no-count timer and is a
new run for the index pulses (R110, R113). -/
def syncMotor (s : State) : State :=
  if s.transport.motor == s.motorWanted then s
  else if s.motorWanted then
    { s with
      transport.motor := true
      transport.speed := none
      transport.nomInUse := s.transport.speedNom
      transport.pulseUs := none
      transport.matched := false
      transport.lastCount := s.ms }
  else { s with transport.motor := false, transport.pulseUs := none, transport.matched := false }

/-- The staged set is copied to the live set when changes wait and the hold is off (R86). -/
def copyCorrections (s : State) : State :=
  if s.engine.waiting && !s.engine.hold then
    { s with engine.live := s.engine.staged, engine.waiting := false }
  else s

/-- The line enters a state: leaving EXPOSING copies the corrections (R86), the motor follows. -/
def setLine (s : State) (l : LineState) : State :=
  let s := if s.ctl.line == .exposing && l != .exposing then s.copyCorrections else s
  { s with ctl.line := l }.syncMotor

/-- What a cause added does to the line (R167). A flush it stops ends there: a closing gap being written ends
with it, and the end of a flush is a scan and an attempt event (log 17). -/
def causeOnLine (s : State) : State :=
  match s.ctl.line with
  | .stopped | .exposing => s.setLine .fault
  | .flushing =>
    let s := match s.engine.work with
      | .closing _ _ => { s with engine.work := .idle }
      | _ => s
    (s.setLine .fault).dueScan.dueAttempt
  | _ => s

/-- A block raises a cause (R167); one already present changes nothing. -/
def addCause (s : State) (c : Cause) : State :=
  if s.ctl.faults.has c then s
  else { s with ctl.faults := s.ctl.faults.put true c }.causeOnLine

/-- What the fault set becoming empty brings (R168): the line leaves FAULT; a scan and an attempt event. -/
def faultsGone (s : State) : State :=
  let s := if s.ctl.line == .fault then s.setLine (if s.writing then .exposing else .stopped) else s
  s.dueScan.dueAttempt

/-- Causes are removed together; R168 applies when that empties the set. -/
def setFaults (s : State) (f : FaultSet) : State :=
  let t := { s with ctl.faults := f }
  if !s.noFault && t.noFault then t.faultsGone else t

/-- The line leaves CHANGEOVER or CALIBRATING (R99, R125, R126, R165); back in STOPPED it is a scan and an
attempt event. -/
def leaveWork (s : State) : State :=
  (s.setLine (if s.noFault then .stopped else .fault)).dueScan.dueAttempt

/-- A calibration starts (R97). -/
def startCalibration (s : State) (k : CalKind) : State :=
  { s with
    cal.run := some { kind := k, start := s.ms, ref := s.cal.ref }
    cal.pending := none }.setLine .calibrating

/-- A request merged with the pending calibration (R95). -/
def mergePending (s : State) (k : CalKind) : State :=
  { s with cal.pending := some (if s.cal.pending == some .long then .long else k) }

/-- A wake event (R175): STANDBY becomes WAKING with the wake timer started. -/
def wake (s : State) : State :=
  if s.ctl.line == .standby then { s with ctl.wakeTimer := some s.ms }.setLine .waking else s

end State

end Sys2Proof.Machine
end

