-- ==== Sys2Proof/Machine/Engine.lean ====
section
/-! DEFINITION. The exposure engine (chapter 4): frame layout, source pixels, the pixel pipeline, the
writing of lines, and the end of a frame. -/

namespace Sys2Proof.Machine

/-- Lines of a frame: 24 gap lines, then the image lines (R72). -/
def FrameContext.total (c : FrameContext) : Nat := 24 + c.lines

/-- Span of a frame in counts: 48 + 40 × along_mm, with 20 lines a mm (R71). -/
def FrameContext.span (c : FrameContext) : Nat := 48 + 2 * c.lines

/-- Piece area in cm², rounded up (R61, R71). -/
def Geometry.area (g : Geometry) : Nat := ceilDiv (g.across * g.along) 100

/-- Span of a frame of that geometry in counts (R71). -/
def Geometry.span (g : Geometry) : Nat := 48 + 40 * g.along

/-! ### The codes of a line -/

/-- Drive code of an element of gap line k, in every channel (R73). -/
def gapCode (k x : Nat) : Nat := if 8 ≤ k ∧ k ≤ 15 ∧ x < 128 then 1023 else 0

/-- Gap line k as drive codes (R73). -/
def gapLine (k : Nat) : Rgb (List Nat) := .all ((List.range Config.headElements).map (gapCode k))

/-- R, G and B of source pixel (sx, sy) of an image slot (R77). -/
def sourcePixel (m : ImageStore) (slot sx sy : Nat) : Rgb Nat :=
  let i := m.slot slot
  let w := (i.size.map (·.width)).getD 0
  let k := sy * w + sx
  ⟨imageByte m.dram i.pages (3 * k), imageByte m.dram i.pages (3 * k + 1),
    imageByte m.dram i.pages (3 * k + 2)⟩

/-- The source pixel of image element x of image line y of a PRINT frame (R77): mirror, then rotate. -/
def printSource (c : FrameContext) (x y : Nat) : Nat × Nat :=
  let y := if c.mirror.along then c.lines - 1 - y else y
  let x := if c.mirror.across then c.cols - 1 - x else x
  if c.rotate then (y, c.cols - 1 - x) else (x, y)

/-- The subsample factor of a thumbnail (R83): the smallest f ≥ 1 with w ≤ f × cw and h ≤ f × ch. -/
def thumbFactor (w h cw ch : Nat) : Nat := max 1 (max (ceilDiv w cw) (ceilDiv h ch))

/-- What image element x of image line y of an INDEX frame shows: a slot and its source pixel, or nothing
(R82, R83). -/
def indexSource (m : ImageStore) (c : FrameContext) (x y : Nat) : Option (Nat × Nat × Nat) :=
  let pc := c.cols / 4
  let pl := c.lines / 4
  let k := x / pc
  let r := y / pl
  if 4 ≤ k ∨ 4 ≤ r ∨ x % pc < 8 ∨ y % pl < 8 then none
  else match c.plan[4 * r + k]? with
    | none => none
    | some slot => match (m.slot slot).size with
      | none => none
      | some z =>
        let f := thumbFactor z.width z.height (pc - 16) (pl - 16)
        let a := x % pc - 8
        let b := y % pl - 8
        if a < ceilDiv z.width f ∧ b < ceilDiv z.height f then some (slot, a * f, b * f) else none

/-- The values of the density pattern at element x of image line y (R106); `none` outside the patches. -/
def testPixel (cols x y : Nat) : Option (Rgb Nat) :=
  let pitch := cols / 16
  let band := y / 760
  let j := x / pitch
  if band < 4 ∧ 40 ≤ y % 760 ∧ y % 760 ≤ 719 ∧ j < 16 ∧ 4 ≤ x % pitch ∧ x % pitch + 5 ≤ pitch then
    let v := 17 * j
    match band with
    | 0 => some ⟨v, 255, 255⟩
    | 1 => some ⟨255, v, 255⟩
    | 2 => some ⟨255, 255, v⟩
    | _ => some ⟨v, v, v⟩
  else none

/-- The channel values of the source pixel of element x of image line y; `none` for a blank or outside
element (R74). -/
def pixelAt (m : ImageStore) (c : FrameContext) (x y : Nat) : Option (Rgb Nat) :=
  if c.cols ≤ x then none
  else match c.kind with
    | .print =>
      let p := printSource c x y
      c.slot.map fun k => sourcePixel m k p.1 p.2
    | .index => (indexSource m c x y).map fun p => sourcePixel m p.1 p.2.1 p.2.2
    | .test => testPixel c.cols x y

/-- Steps 2 to 6 of R78 for one channel: the code of channel value v. -/
def pixelCode (curve drive : List Nat) (balance itemTrim : Int) (offset trim v : Nat) : Nat :=
  let l := curve.getD v 0
  let l' := clampInt (l + balance + itemTrim) 0 127
  let dt := roundHalfUp (drive.getD l' 0 * trim) 1024
  min 1015 (max 8 (dt + offset))

/-- The code of element x of image line y in channel ch (R74, R78, R79). -/
def elementCode (s : State) (c : FrameContext) (ch : Channel) (x y : Nat) : Nat :=
  match pixelAt s.images c x y with
  | none => 0
  | some px =>
    let k := rgbGet c.corr ch
    pixelCode (rgbGet (surfaceGet s.engine.curves c.surface) ch) (rgbGet s.engine.drive ch) k.balance
      (rgbGet c.trims ch) k.offset ((rgbGet s.cal.trim ch).getD x 1024) (rgbGet px ch)

/-- Line k of a frame as drive codes: a gap line, or an image line (R73, R74). -/
def frameLine (s : State) (c : FrameContext) (k : Nat) : Rgb (List Nat) :=
  if k < 24 then gapLine k
  else
    let row (ch : Channel) := (List.range Config.headElements).map fun x => elementCode s c ch x (k - 24)
    ⟨row .r, row .g, row .b⟩

/-! ### Writing lines (R72) -/

/-- The number of lines written once the position is `pos`: line k is due at start + 2k. -/
def linesDue (start next total pos : Nat) : Nat :=
  if pos < start then next else max next (min total ((pos - start) / 2 + 1))

/-- The back-print strobe after the lines below `upto` have been written (R89): on from the writing of image
line BP_START to the writing of image line BP_END, in PRINT frames with the enable on. -/
def backPrintAt (c : FrameContext) (upto : Nat) : Option BackPrint :=
  match c.kind, c.target with
  | .print, some t =>
    if c.bpEnable ∧ 24 + c.bpStart < upto ∧ upto ≤ 24 + c.bpStop then some ⟨t.number, c.bpSeq⟩ else none
  | _, _ => none

/-- The frame from line `lo` on, `n` lines, each with its codes. -/
def strobeLines (codes : Nat → Rgb (List Nat)) (lo n : Nat) : List HeadLine :=
  (List.range' lo n).map fun k => ⟨k, codes k⟩

namespace State

/-- The end of a frame, complete or aborted: engine IDLE, strobe removed, the end reported (R75, R90). -/
def endFrame (s : State) : State :=
  { s with engine.work := .idle, engine.strobe := none, due.frameEnd := true }

/-- The lines of the frame or closing gap whose points the position has reached are written, in order,
each once (R72, R76); the last one ends the frame or the gap (R75, R76). -/
def writeLines (s : State) : State :=
  match s.engine.work with
  | .idle => s
  | .frame c =>
    let upto := linesDue c.start c.next c.total s.transport.position
    if upto ≤ c.next then s
    else
      let ls := strobeLines (frameLine s c) c.next (upto - c.next)
      let t := { s with
        engine.strobed := s.engine.strobed ++ ls
        engine.presented := .codes (frameLine s c (upto - 1))
        engine.strobe := backPrintAt c upto
        engine.work := .frame { c with next := upto } }
      if upto = c.total then t.endFrame else t
  | .closing start next =>
    let upto := linesDue start next 24 s.transport.position
    if upto ≤ next then s
    else
      { s with
        engine.strobed := s.engine.strobed ++ strobeLines gapLine next (upto - next)
        engine.presented := .codes (gapLine (upto - 1))
        engine.work := if upto = 24 then .idle else .closing start upto }

/-- The frame being written is aborted (R90): its end is reported, and its print is spoiled once. -/
def abortFrame (s : State) : State :=
  match s.frame? with
  | none => s
  | some c => s.endFrame.spoil? (c.target.map fun t => ⟨t.number, t.item⟩)

end State

end Sys2Proof.Machine
end

