-- ==== Sys2Proof/Machine/Monitor.lean ====
section
/-! DEFINITION. The processor monitor (chapter 8): load window, replenishment, pump, sheet list, transit
watchdog and jams. -/

namespace Sys2Proof.Machine

/-- The load window: the sum of the 60 buckets (R142). -/
def Monitor.window (m : Monitor) : Nat := total m.buckets

/-- The monitor admits a frame of area a (R143). -/
def Monitor.admits (m : Monitor) (a : Nat) : Bool :=
  decide (m.window + a ≤ m.budget) || m.window == 0

/-- An admitted area is added to the current bucket (R142, R143). -/
def Monitor.addArea (m : Monitor) (a : Nat) : Monitor :=
  { m with buckets := modAt (· + a) m.buckets (m.second % 60) }

/-- The transit watchdog (R149). -/
inductive Watchdog where
  | disarmed
  | armed (expiry : Nat)
  | suspended
  deriving DecidableEq, Repr

/-- The watchdog, from the stop, the sheet list and PROC_TOL (R149). -/
def Monitor.watchdog (m : Monitor) : Watchdog :=
  if m.stop.isSome then .suspended
  else match m.sheets with
    | [] => .disarmed
    | x :: _ => .armed (x.due + m.tol * 1000)

/-- Whole units are taken from the accumulator into pending pulses, which saturate at 255 (R145). -/
def Monitor.convert (m : Monitor) : Monitor :=
  { m with
    pulses := min 255 (m.pulses + m.accumulator / m.replUnit)
    accumulator := m.accumulator % m.replUnit }

namespace State

/-- A pump pulse starts from IDLE when one is pending and the processor stop is released (R146). -/
def startPump (s : State) : State :=
  if s.monitor.pump == .idle && decide (0 < s.monitor.pulses) && s.monitor.stop.isNone then
    { s with monitor.pump := .pulse s.ms s.monitor.replPulse }
  else s

/-- A completed piece is handed to the monitor (R139, R145, R147): its sheet is appended, its area is
added to the accumulator and converted. -/
def handOff (s : State) (kind : FrameKind) (order : Option OrderItem) (area : Nat) (inspect : Bool) :
    State :=
  let sheet : Sheet :=
    { kind := kind, order := order, cutTime := s.ms, due := s.ms + s.monitor.transit * 1000,
      area := area, inspect := inspect }
  let m := { s.monitor with
    sheets := s.monitor.sheets ++ [sheet]
    accumulator := s.monitor.accumulator + area }
  { s with monitor := m.convert }.startPump

/-- The head sheet is lost (R150 step 1): it leaves the list; a PRINT or INDEX is a spoil. -/
def loseHead (s : State) : State :=
  match s.monitor.sheets with
  | [] => s
  | x :: rest => ({ s with monitor.sheets := rest }.spoil? x.order).dueAttempt

/-- `n` head sheets are lost one after another (R151 step 1). -/
def loseHeads (s : State) : Nat → State
  | 0 => s
  | n + 1 => s.loseHead.loseHeads n

/-- The watchdog expires (R150): the head is lost, the processor stopped, JAM added. -/
def jam (s : State) : State := { s.loseHead with monitor.stop := some s.ms }.addCause .jam

/-- A watchdog armed with an expiry time already passed expires at once (R149). -/
def checkWatchdog (s : State) : State :=
  match s.monitor.watchdog with
  | .armed t => if t ≤ s.ms then s.jam else s
  | _ => s

end State

end Sys2Proof.Machine
end

