-- ==== Sys2Proof/Machine/CutterOps.lean ====
section
/-! DEFINITION. The cutter unit (chapter 7): the open piece and the pending cut, marks, missed marks,
the firing of a cut and the forming of pieces, and the drop of the web list. -/

namespace Sys2Proof.Machine

/-- The open piece: the head of the web list when its leading cut has been made (R129). -/
def Cutter.openPiece (c : Cutter) : Option WebRecord :=
  match c.web with
  | x :: _ => if x.leading then some x else none
  | [] => none

/-- The pending cut: the cut position of the oldest record whose mark is settled and whose leading cut
has not been made (R134). -/
def Cutter.pendingCut (c : Cutter) : Option Nat :=
  (c.web.find? fun x => x.cut.isSome && !x.leading).bind (·.cut)

/-- The end of the span of a web record. -/
def WebRecord.stop (x : WebRecord) : Nat := x.start + x.span

/-- Where a frame or closing gap appended now starts (R71). -/
def Cutter.nextStart (c : Cutter) (position : Nat) : Nat :=
  match c.web.getLast? with
  | some x => max position x.stop
  | none => position

/-- A web record at its append (R71, R76, R128). -/
def Cutter.newRecord (c : Cutter) (kind : RecordKind) (order : Option OrderItem) (start span area : Nat) :
    WebRecord :=
  { kind := kind, order := order, start := start, span := span, expected := start + 16 + c.markPath,
    area := area, inspect := false, mark := .unseen, cut := none, leading := false }

/-- The oldest record whose mark is UNSEEN, settled by `f`; `g` changes the record just before it. -/
def settleMark (f g : WebRecord → WebRecord) : List WebRecord → List WebRecord
  | [] => []
  | [x] => if x.mark == .unseen then [f x] else [x]
  | x :: y :: rest =>
    if x.mark == .unseen then f x :: y :: rest
    else if y.mark == .unseen then g x :: f y :: rest
    else x :: settleMark f g (y :: rest)

/-- The oldest record whose mark is UNSEEN (R129). -/
def Cutter.expectedRecord (c : Cutter) : Option WebRecord := c.web.find? fun x => x.mark == .unseen

/-- A recognised mark with that leading edge is blanked (R131.1). -/
def Cutter.blanked (c : Cutter) (edge : Nat) : Bool :=
  match c.lastMark with
  | some l => decide (edge < l.capture + c.blank)
  | none => false

/-- A recognised mark is judged (R131). -/
def Cutter.judge (c : Cutter) (edge : Nat) : Cutter :=
  if c.blanked edge then c
  else match c.expectedRecord with
    | none => c
    | some x =>
      if x.expected ≤ edge + c.markTol ∧ edge ≤ x.expected + c.markTol then
        { c with
          web := settleMark (fun y => { y with mark := .taken edge, cut := some (edge + c.cutOffset) })
            id c.web
          lastMark := some ⟨edge, (edge : Int) - x.expected⟩ }
      else c

/-- A mark candidate whose leading edge lies 8 counts back or more is recognised (R130). -/
def Cutter.recognise (c : Cutter) (position : Nat) : Cutter :=
  match c.candidate with
  | some edge => if edge + 8 ≤ position then ({ c with candidate := none }).judge edge else c
  | none => c

/-- The record is declared missed at that position (R132). -/
def Cutter.isMissed (c : Cutter) (position : Nat) : Bool :=
  match c.expectedRecord with
  | some x => decide (x.expected + c.markTol + 8 < position)
  | none => false

/-- The oldest UNSEEN record is settled as MISSED, it and the record before it inspected (R132). -/
def Cutter.miss (c : Cutter) : Cutter :=
  { c with
    web := settleMark
      (fun y => { y with mark := .missed, cut := some (y.expected + c.cutOffset), inspect := true })
      (fun y => { y with inspect := true }) c.web }

/-- Records are declared missed one after another, in list order (R132). -/
def Cutter.missAll (c : Cutter) (position : Nat) : Nat → Cutter
  | 0 => c
  | n + 1 => if c.isMissed position then c.miss.missAll position n else c

/-- The pending cut is due at that position: reached, and past the lockout (R135). -/
def Cutter.cutDue (c : Cutter) (position : Nat) : Bool :=
  match c.pendingCut with
  | none => false
  | some p =>
    decide (p ≤ position) &&
      (match c.lastCut with
        | some l => decide (l + Config.lockout ≤ position)
        | none => true)

/-- The list is dropped (R127). -/
def Cutter.drop (c : Cutter) : Cutter :=
  { c with web := [], lastCut := none, lastMark := none, candidate := none, diverter := .chute }

/-- Step 2 of R137 on the list behind the completed piece: a CLOSING record leaves with its cut, another
record becomes the open piece. -/
def openAtCut : List WebRecord → List WebRecord
  | [] => []
  | x :: rest => if x.kind == .closing then rest else { x with leading := true } :: rest

/-- The frame kind of a web record that goes to the processor (R137). -/
def RecordKind.sheet : RecordKind → Option FrameKind
  | .print => some .print
  | .index => some .index
  | .test => some .test
  | .waste | .closing => none

namespace State

/-- The piece ahead of the cut is completed (R137 step 1, R138, R139): a PRINT, INDEX or TEST piece goes to
the processor, a WASTE piece or a leader to the chute. -/
def completePiece (s : State) : State :=
  match s.cutter.openPiece with
  | none => { s with cutter.diverter := .chute }
  | some x =>
    let s := ({ s with cutter.web := s.cutter.web.drop 1 }).dueAttempt
    match x.kind.sheet with
    | some k =>
      ({ s with cutter.diverter := .processor }).handOff k x.order x.area x.inspect
    | none => { s with cutter.diverter := .chute }

/-- The pending cut fires (R135, R137). The blade leaves its home switch (log 6). -/
def fireCut (s : State) : State :=
  let s := { s with
    cutter.blade := .down s.ms s.cutter.cutDwell
    cutter.homeInput := false
    cutter.lastCut := some s.transport.position }
  let s := s.completePiece
  let t := { s with cutter.web := openAtCut s.cutter.web }
  if s.cutter.web.head?.any (fun x => x.kind == .closing) then t.dueAttempt else t

/-- A due cut fires when the blade is IN and home; IN without home makes it STUCK with CUTTER (R135). -/
def tryCut (s : State) : State :=
  if s.cutter.cutDue s.transport.position && s.cutter.blade == .isIn then
    if s.cutter.homeInput then s.fireCut
    else { s with cutter.blade := .stuck }.addCause .cutter
  else s

/-- The marks at the present position: recognition, then missed marks (R130, R131, R132). -/
def judgeMarks (s : State) : State :=
  let c := s.cutter.recognise s.transport.position
  { s with cutter := c.missAll s.transport.position c.web.length }

/-- The web list is dropped; each PRINT and INDEX print on it is spoiled once (R91, R127). The records that
leave the list are an attempt event (R60). -/
def dropWeb (s : State) : State :=
  let lost := s.cutter.web.filterMap fun x => x.order
  let t := lost.foldl spoil { s with cutter := s.cutter.drop }
  if s.cutter.web.isEmpty then t else t.dueAttempt

/-- The record of the frame being written becomes WASTE with no order (R91): the last of the list. -/
def wasteLast (s : State) : State :=
  let n := s.cutter.web.length
  { s with cutter.web := modAt (fun x => { x with kind := .waste, order := none }) s.cutter.web (n - 1) }

end State

end Sys2Proof.Machine
end

