-- ==== Sys2Proof/Machine/TransportOps.lean ====
section
/-! DEFINITION. The transport unit (chapter 6): speed, the ENCODER condition, the index check, roll
consumption, the movement of the position, the clear probe, and the magazine events. -/

namespace Sys2Proof.Machine

/-- The speed in use in counts per second (R113): the measured speed of this run, else SPEED_NOM × 40,
with SPEED_NOM as at the motor start while the motor runs (R108). -/
def Transport.speedInUse (t : Transport) : Nat :=
  t.speed.getD ((if t.motor then t.nomInUse else t.speedNom) * 40)

/-- The distance of two positions, in either direction. -/
def distance (a b : Nat) : Nat := (a - b) + (b - a)

/-- The dead-reckoned position (R114). -/
def DeadReckoning.position (d : DeadReckoning) : Nat :=
  min Config.positionMax (d.base + d.speed * d.runUs / 1000000)

/-- A remaining length with `n` mm taken, saturating at 0 (R122). -/
def Remaining.take (r : Remaining) (n : Nat) : Remaining :=
  match r with
  | .mm k => .mm (k - n)
  | _ => r

/-- The roll is consumed up to a position (R122). A tail that is used up ends consumption (R123); a move of
several counts that passes its end leaves the carry 0 (log 37). -/
def Mag.consume (m : Mag) (position : Nat) : Mag :=
  if m.consumedTo < position then
    let c := m.carry + (position - m.consumedTo)
    if m.endSeen && m.remaining.below (c / 40 + 1) then
      { m with consumedTo := position, carry := 0, remaining := .mm 0 }
    else { m with consumedTo := position, carry := c % 40, remaining := m.remaining.take (c / 40) }
  else m

/-- A slot's context and what goes with it cleared (R119). -/
def Mag.clear (m : Mag) : Mag :=
  { m with ctx := none, remaining := .absent, endSeen := false, carry := 0 }

/-- The slot at an insertion: the code strip is read and decoded (R118). -/
def Mag.insert (m : Mag) : Mag :=
  let m := { m with rawStrip := m.strip }
  match stripContext m.strip with
  | none => m.clear
  | some c =>
    let sameSerial := m.ctx.any fun (k : MagContext) => k.serial == c.serial
    if sameSerial && !m.endSeen then { m with ctx := some c }
    else if sameSerial then { m with ctx := some c, remaining := .unknown, endSeen := false }
    else { m with ctx := some c, remaining := .unknown, endSeen := false, carry := 0 }

/-- The slot at a removal: the context is kept or cleared (R119). -/
def Mag.remove (m : Mag) : Mag := if m.resetEnable || m.ctx.isNone then m.clear else m

namespace State

/-! ### Encoder health (R111 to R115) -/

/-- The ENCODER condition arises (R114): dead reckoning comes into force and every web record is
flagged for inspection. In FAULT the encoder response is made at once. -/
def encoderArises (s : State) : State :=
  let t := { s with
    transport.encoder := true
    transport.deadReckoning := some ⟨s.transport.position, s.transport.speedInUse, 0⟩
    cutter.web := s.cutter.web.map fun x => { x with inspect := true } }
  if s.ctl.line == .fault then t.addCause .encoder else t

/-- One mismatch more (R111); the second in succession raises the ENCODER condition. -/
def mismatch (s : State) : State :=
  let s := { s with transport.mismatches := s.transport.mismatches + 1 }
  if 2 ≤ s.transport.mismatches then s.encoderArises else s

/-- The mismatch taken without a pulse (R111): the distance from the reference passes COUNTS_PER_REV + 4.
The check is suspended while the condition is present. -/
def checkIndex (s : State) : State :=
  match s.transport.indexRef with
  | none => s
  | some r =>
    let rev := s.transport.revInUse
    if !s.transport.encoder && decide (rev + 4 < distance s.transport.position r) then
      { s with
        transport.indexRef := some (if r < s.transport.position then r + rev else r - rev) }.mismatch
    else s

/-- The speed formed from the interval of two index pulses in µs (R113); for 0 µs a free value (log 15). -/
def formSpeed (s : State) (interval : Nat) : State :=
  if interval = 0 then
    { s with
      transport.speed := some (Config.speedAtZeroInterval s.freeCount)
      freeCount := s.freeCount + 1 }
  else { s with transport.speed := some (roundHalfUp (s.transport.countsPerRev * 1000000) interval) }

/-- The check of an index pulse against the reference (R111), and the speed a match forms (R113): the first
match of a motor run forms none, a later one forms it with its partner. -/
def indexCheck (s : State) (r : Nat) : State :=
  let rev := s.transport.countsPerRev
  let d := distance s.transport.position r
  if rev ≤ d + 4 ∧ d ≤ rev + 4 then
    let t := { s with transport.mismatches := 0, transport.matched := s.transport.motor }
    match s.transport.pulseUs with
    | some p => if s.transport.motor && s.transport.matched then t.formSpeed (s.now - p) else t
    | none => t
  else s.mismatch

/-- An index pulse outside the ENCODER condition (R111): checked against the reference when there is one;
the reference is then the position. -/
def indexPulse (s : State) : State :=
  if s.transport.encoder then s
  else
    let t := match s.transport.indexRef with
      | none => s
      | some r => s.indexCheck r
    { t with
      transport.indexRef := some s.transport.position
      transport.revInUse := s.transport.countsPerRev
      transport.pulseUs := if s.transport.motor then some s.now else none }

/-! ### Position and roll (R109, R122) -/

/-- A slot that has become EMPTY stops being threaded (R123). -/
def unthreadEmpty (s : State) : State :=
  match s.transport.threaded with
  | none => s
  | some m => if s.magState m == .empty then { s with transport.threaded := none } else s

/-- The threaded roll is consumed up to the position (R122). -/
def consumeRoll (s : State) : State :=
  match s.transport.threaded with
  | none => s
  | some m => (s.modMag (fun g => g.consume s.transport.position) m).unthreadEmpty

/-- The position moves, and everything that follows it happens (log 11): roll consumption, the index check,
lines, marks, missed marks, the pending cut. -/
def moveTo (s : State) (position : Nat) : State :=
  ({ s with transport.position := position }).consumeRoll.checkIndex.writeLines.judgeMarks.tryCut

/-- The time base moves on by `us` µs, and under dead reckoning the position with it (R114): it is at every
time the base position and the counts of the running time. The µs are one stretch: what the position passes
happens at its end, a frame's end too, so the motor and the running time go on to the end of the stretch (log
12). -/
def pass (s : State) (us : Nat) : State :=
  if s.reckons then
    let t := s.elapse us
    match t.transport.deadReckoning with
    | some d => t.moveTo d.position
    | none => t
  else s.elapse us

/-- The time base moves on to `t` ms, when that lies ahead, and under dead reckoning the position with it. -/
def passTo (s : State) (t : Nat) : State :=
  if s.now < t * 1000 then s.pass (t * 1000 - s.now) else s

/-- The position after one count (R109). -/
def countedPosition (s : State) (forward : Bool) : Nat :=
  if forward then min Config.positionMax (s.transport.position + 1) else s.transport.position - 1

/-! ### Clear probe (R115, R170) -/

/-- Dead reckoning goes on from the position reached by the probe. -/
def rebase (s : State) : State :=
  { s with
    transport.deadReckoning := s.transport.deadReckoning.map fun d =>
      { d with base := s.transport.position, runUs := 0 } }

/-- The probe succeeds: the ENCODER condition goes, PASSED, ENCODER removed; an attempt event. -/
def probePasses (s : State) : State :=
  let s := { s with
    transport.probe := none
    transport.encoder := false
    transport.deadReckoning := none
    transport.indexRef := none
    transport.mismatches := 0
    ctl.lastProbe := .passed }
  (s.syncMotor.setFaults (s.ctl.faults.put false .encoder)).dueAttempt

/-- The probe fails: the condition stays, FAILED. -/
def probeFails (s : State) : State :=
  ({ s with transport.probe := none, ctl.lastProbe := .failed }).rebase.syncMotor

/-! ### Magazine events (R118 to R126) -/

/-- The changeover request is cleared. -/
def clearRequest (s : State) : State := { s with sched.request := none }

/-- An insertion (R118): a wake source (R174). -/
def insertion (s : State) (m : MagSlot) : State :=
  let s := s.modMag Mag.insert m
  if s.ctl.wakeInsertion then s.wake else s

/-- The removal of the incoming magazine ends the changeover (R126): PAPER for the ACTIVE order. -/
def loseIncoming (s : State) : State :=
  let s := { s with transport.changeover := none }.clearRequest.leaveWork
  match s.current with
  | some i => s.addHold i .paper
  | none => s

/-- The removal of a slot that is not threaded (R119, R126). -/
def removal (s : State) (m : MagSlot) : State :=
  let s := s.modMag Mag.remove m
  if (s.transport.changeover.map (·.incoming)) == some m then s.loseIncoming else s

/-- A frame or closing gap being written is ended by the loss of the web (R90, R91): a frame is aborted,
its record carrying no print any more. -/
def cutOffEngine (s : State) : State :=
  match s.engine.work with
  | .idle => s
  | .frame _ => s.abortFrame.wasteLast
  | .closing _ _ => { s with engine.work := .idle }

/-- A running probe ends FAILED at a web break (R170). -/
def breakProbe (s : State) : State := if s.transport.probe.isSome then s.probeFails else s

/-- A web break (R124, R126): the removal of the threaded magazine. In FLUSHING it ends the flush (R140), a
scan and an attempt event; in CHANGEOVER it brings no attempt (R126), and resets last cut, last mark, candidate
and diverter as every drop of the list does (log 42). -/
def webBreak (s : State) (m : MagSlot) : State :=
  let line := s.ctl.line
  let s := { s.modMag Mag.remove m with transport.threaded := none }
  let s := s.breakProbe.cutOffEngine.dropWeb.addCause .paperBreak
  match line with
  | .changeover => ({ s with transport.changeover := none }.clearRequest).setLine .fault
  | .flushing => s.clearRequest.dueScan.dueAttempt
  | _ => s

/-- What a change of presence brings (R117): an insertion, a removal, or a web break. -/
def presenceChange (s : State) (m : MagSlot) (before : Bool) : State :=
  let after := (s.mag m).present
  if after && !before then s.insertion m
  else if before && !after then
    if s.transport.threaded == some m then s.webBreak m else s.removal m
  else s

/-- Counts of the frame still to be written (R92). -/
def countsToWrite (c : FrameContext) : Nat := c.start + c.span - (c.start + 2 * c.next)

/-- A paper end is taken on the threaded slot (R123); the frame it cannot be finished within is aborted,
its record WASTE (R91, R92). -/
def takePaperEnd (s : State) (m : MagSlot) : State :=
  let s := s.modMag
    (fun g => { g with remaining := .mm s.transport.endLead, endSeen := true, carry := 0 }) m
  match s.frame? with
  | some c => if s.transport.endLead * 40 < countsToWrite c then s.abortFrame.wasteLast else s
  | none => s

/-- The incoming slot is threaded at the completion of a changeover (R125 steps 1 to 4). -/
def thread (s : State) (m : MagSlot) : State :=
  let s := { s with transport.threaded := some m }.modMag
    (fun g => { g with consumedTo := s.transport.position, remaining := g.remaining.take 40 }) m
  let g := s.mag m
  (if g.endInput && !g.endSeen then s.takePaperEnd m else s).unthreadEmpty

/-- The slot a changeover gives up enters READY or LOW: an event of R58, whatever it was before (R125). -/
def giveUp (s : State) (outgoing : Option MagSlot) : State :=
  match outgoing.map s.magState with
  | some .ready | some .low => s.releasePaper
  | _ => s

end State

end Sys2Proof.Machine
end

