-- ==== Sys2Proof/Machine/SchedulerOps.lean ====
section
/-! DEFINITION. The print scheduler (chapter 3): frame choice, bin reservation, scan, frame start attempt,
frame start, flush and changeover requests, the encoder response; and `settle`, which brings every command
that is carried out to rest. -/

namespace Sys2Proof.Machine

/-- The outcome of a frame choice (R57): a frame of an item (0 the index), a changeover, or PAPER. -/
inductive Choice where
  | frame (item : Nat)
  | change (slot : MagSlot)
  | paper
  deriving DecidableEq, Repr

/-- The first value found along a list. -/
def firstSome {α β : Type} (f : α → Option β) : List α → Option β
  | [] => none
  | x :: xs => match f x with
    | some y => some y
    | none => firstSome f xs

/-- The positions of the items with p > 0, in item order. -/
def Order.pendingItems (o : Order) : List Nat :=
  ((List.range o.items.length).map (· + 1)).filter fun k =>
    (o.countsAt k).any fun n => decide (0 < n.p)

/-- The positions a choice is made among: the items with p > 0, or the index when every item has p = 0
and the index has p > 0 (R57). -/
def Order.candidates (o : Order) : List Nat :=
  if o.pendingItems.isEmpty then
    (if (o.countsAt 0).any (fun n => decide (0 < n.p)) then [0] else [])
  else o.pendingItems

/-- The bins an order needs (R155); where that is more than four, log 41. -/
def Order.need (o : Order) : Nat := max 1 (ceilDiv (o.sum fun n => n.d + n.w + n.p) Config.binCapacity)

/-- The geometry of a test frame on a slot (R105). -/
def testGeometry (m : Mag) : Option Geometry := m.ctx.map fun c => ⟨c.width, 152, .any⟩

/-- A product surface is satisfied by a paper surface (R56). -/
def ProductSurface.suits (p : ProductSurface) (f : Surface) : Bool :=
  match p with
  | .any => true
  | .of x => x == f

/-- A remaining length keeps the roll reserve: unknown, or at least along_mm + 100 (R56). -/
def Remaining.reserves (r : Remaining) (along : Nat) : Bool :=
  match r with
  | .unknown => true
  | .mm n => decide (along + 100 ≤ n)
  | .absent => false

namespace State

/-! ### Choice (R56, R57) -/

/-- A frame of that geometry suits a magazine slot (R56). -/
def suits (s : State) (m : MagSlot) (g : Geometry) : Bool :=
  (match s.magState m with
    | .ready | .active | .low => true
    | _ => false) &&
  (match (s.mag m).ctx with
    | some c => c.width == g.across && g.surface.suits c.surface
    | none => false) &&
  (s.mag m).remaining.reserves g.along

/-- The item's frame suits the slot. -/
def itemSuits (s : State) (o : Order) (m : MagSlot) (item : Nat) : Bool :=
  match o.frameGeom item with
  | some g => s.suits m g
  | none => false

/-- The threaded magazine suits the item's frame. -/
def threadedSuits (s : State) (o : Order) (item : Nat) : Bool :=
  match s.transport.threaded with
  | some m => s.itemSuits o m item
  | none => false

/-- The slot that is not threaded and suits the item's frame, M1 before M2 (R57). -/
def changeFor (s : State) (o : Order) (item : Nat) : Option MagSlot :=
  [MagSlot.m1, .m2].find? fun m => s.transport.threaded != some m && s.itemSuits o m item

/-- The frame choice for an order (R57). -/
def choose (s : State) (o : Order) : Choice :=
  match o.candidates.find? (s.threadedSuits o) with
  | some item => .frame item
  | none => match firstSome (s.changeFor o) o.candidates with
    | some m => .change m
    | none => .paper

/-! ### Reservation, selection, scan (R53 to R55, R155) -/

/-- The sorter completes an order's bin reservation; `none` when it refuses (R155). -/
def reserve (s : State) (i : Nat) : Option State :=
  let o := s.orderAt i
  let lack := o.need - o.bins.length
  let free := s.sorter.freeBins (s.sorter.bankFor o.number)
  if free.length < lack then none
  else
    let bs := free.take lack
    let s := { s with
      sorter := s.sorter.modBins (fun _ => ⟨.reserved, some o.number, 0⟩) bs }
    some (s.modOrder i fun o => { o with bins := o.bins ++ bs })

/-- An order is selected (R24, R54, R55): it becomes ACTIVE; an attempt event (R60). -/
def select (s : State) (i : Nat) : State :=
  { s.setOrderState i .active with sched.queueBlocked := false }.dueAttempt

/-- The walk of a scan along the queue (R54); at its end without a selection, queue blocked (R55). -/
def scanWalk (s : State) : List Nat → State
  | [] => { s with sched.queueBlocked := !s.book.queue.isEmpty }
  | i :: rest =>
    match s.choose (s.orderAt i) with
    | .paper => (s.addHold i .paper).scanWalk rest
    | _ => match s.reserve i with
      | some t => t.select i
      | none => s.scanWalk rest

/-- The line is STOPPED, or EXPOSING at the end of a frame. -/
def lineReady (s : State) : Bool :=
  s.ctl.line == .stopped || (s.ctl.line == .exposing && !s.writing)

/-- The boundary is open and the selection conditions hold (R53). -/
def mayScan (s : State) : Bool :=
  s.current.isNone && !s.writing && s.ctl.runEnable && s.noFault && !s.cal.pattern && s.lineReady &&
    s.cal.pending.isNone

/-- A scan, when an event of R53 has come and its conditions hold. -/
def runScan (s : State) : State :=
  if s.due.scan then
    let s := { s with due.scan := false }
    if s.mayScan then s.scanWalk s.book.queue else s
  else s

/-! ### Flush and changeover (R59, R125, R140) -/

/-- A flush starts (R140): FLUSHING, with a closing gap unless the last record is CLOSING. -/
def startFlush (s : State) : State :=
  let s := s.setLine .flushing
  if s.cutter.web.getLast?.any fun x => x.kind == .closing then s
  else
    let start := s.cutter.nextStart s.transport.position
    { s with
      cutter.web := s.cutter.web ++ [s.cutter.newRecord .closing none start 48 0]
      engine.work := .closing start 0 }.writeLines

/-- A changeover starts (R125). -/
def startChangeover (s : State) (m : MagSlot) : State :=
  { s with transport.changeover := some ⟨m, s.ms⟩ }.setLine .changeover

/-- A changeover outcome becomes the scheduler's request (R59). -/
def requestChange (s : State) (m : MagSlot) : State :=
  if s.cutter.web.isEmpty then { s with sched.request := some ⟨m, .change⟩ }.startChangeover m
  else ({ s with sched.request := some ⟨m, .flush⟩ }.setLine .stopped).startFlush

/-! ### Frame start (R60 to R66) -/

/-- The first of the first three checks of R61 that fails. -/
def firstWait (s : State) : WaitCause :=
  if !s.ctl.runEnable then .runEnable
  else if !(s.noFault && !s.transport.encoder && s.lineReady) then .lineState
  else if s.cal.pending.isSome then .calibration
  else .none

/-- The wait cause is recorded. -/
def waitFor (s : State) (w : WaitCause) : State := { s with sched.waitCause := w }

/-- The web list and the sheet list have room for a frame (R61). -/
def listRoom (s : State) : Bool :=
  decide (s.cutter.web.length ≤ 14) &&
    decide (s.cutter.web.length + s.monitor.sheets.length + 1 ≤ 600)

/-- The first check of R61 that fails for a frame of that area. The roll reserve is met: the choice was
made in this same step with it. -/
def frameWait (s : State) (area : Nat) : WaitCause :=
  match s.firstWait with
  | .none => if !s.listRoom then .listRoom else if !s.monitor.admits area then .processor else .none
  | w => w

/-- The frames-since-calibration count after a frame start (R65), with the SHORT request it may make. -/
def countFrame (s : State) : State :=
  let n := min 5000 (s.sched.framesSinceCal + 1)
  if s.sched.shortEvery != 0 && decide (s.sched.shortEvery ≤ n) then
    { s with sched.framesSinceCal := 0 }.mergePending .short
  else { s with sched.framesSinceCal := n }

/-- The back-print counter of a PRINT frame's order advances (R89). -/
def advanceBackPrint (s : State) (i : Nat) : State :=
  { s with engine.bpCounters := modAt (fun n => min 65535 (n + 1)) s.engine.bpCounters i }

/-- The order book's part of a frame start (R8): p to w, started, and DRAINING with the last print. -/
def startPrint (s : State) (t : Target) : State :=
  let s := s.modOrder t.record fun o =>
    { o.modCounts t.item fun n => { n with p := n.p - 1, w := n.w + 1 } with started := true }
  if (s.orderAt t.record).sum (·.p) = 0 then s.setOrderState t.record .draining else s

/-- The frame context of an order frame, but for its geometry fields (R71, R82, R88). -/
def orderContext (s : State) (t : Target) (base : FrameContext) : FrameContext :=
  let o := s.orderAt t.record
  if t.item = 0 then
    { base with kind := .index, target := some t, plan := distinct (o.items.map (·.slot)) }
  else match o.items[t.item - 1]? with
    | some x =>
      { base with
        kind := .print, target := some t, slot := some x.slot, mirror := x.mirror
        rotate := x.rotate, trims := x.trims, bpSeq := s.engine.bpCounters.getD t.record 0 }
    | none => { base with kind := .print, target := some t }

/-- The frame context's fields that every frame has, as a TEST frame holds them (R71). -/
def baseContext (s : State) (m : MagSlot) (g : Geometry) : FrameContext :=
  let surface := (((s.mag m).ctx).map (·.surface)).getD .gloss
  { kind := .test, target := none, slot := none, mirror := ⟨false, false⟩, rotate := false,
    trims := .all 0, cols := 20 * g.across, lines := 20 * g.along, surface := surface,
    start := s.cutter.nextStart s.transport.position, next := 0,
    corr := surfaceGet s.engine.live surface, bpEnable := s.engine.bpEnable,
    bpStart := s.engine.bpStart, bpStop := s.engine.bpStop, bpSeq := 0, plan := [] }

/-- The record kind of a frame. -/
def frameRecord : FrameKind → RecordKind
  | .print => .print
  | .index => .index
  | .test => .test

/-- The order book's part of a frame start, and the back-print counter of a PRINT frame (R8, R89). -/
def startTarget (s : State) : Option Target → State
  | none => s
  | some t => if t.item = 0 then s.startPrint t else (s.startPrint t).advanceBackPrint t.record

/-- A frame starts (R62): the corrections are copied when due (R86), the counters move, the area is added
to the window, the engine takes the frame and appends its web record, the line is EXPOSING, the count
advances, and line 0 is written when its point has been reached. -/
def startFrame (s : State) (m : MagSlot) (g : Geometry) (target : Option Target) : State :=
  let s := s.copyCorrections.startTarget target
  let base := s.baseContext m g
  let c := match target with
    | some t => s.orderContext t base
    | none => base
  let record := s.cutter.newRecord (frameRecord c.kind)
    (target.map fun t => ⟨t.number, t.item⟩) c.start g.span g.area
  let s := { s with
    monitor := s.monitor.addArea g.area
    cutter.web := s.cutter.web ++ [record]
    engine.work := .frame c
    sched.request := none
    sched.waitCause := .none }
  (s.setLine .exposing).countFrame.writeLines

/-- The checks of R61, and the frame start when all pass. -/
def startIfClear (s : State) (m : MagSlot) (g : Geometry) (target : Option Target) : State :=
  match s.frameWait g.area with
  | .none => s.startFrame m g target
  | w => s.waitFor w

/-- A changeover is requested under the first three checks of R61, else their cause is recorded (R59). -/
def tryChange (s : State) (m : MagSlot) : State :=
  match s.firstWait with
  | .none => (s.waitFor .none).requestChange m
  | w => s.waitFor w

/-- An attempt for the next test frame (R64). -/
def attemptTest (s : State) : State :=
  match s.cal.test with
  | none => s.waitFor s.firstWait
  | some t => match testGeometry (s.mag t.slot) with
    | none => { s with cal.test := none }.waitFor s.firstWait
    | some g =>
      if !s.suits t.slot g then { s with cal.test := none }.waitFor s.firstWait
      else if s.transport.threaded != some t.slot then s.tryChange t.slot
      else match s.frameWait g.area with
        | .none =>
          { s with
            cal.test := if t.remaining ≤ 1 then none else some { t with remaining := t.remaining - 1 }
          }.startFrame t.slot g none
        | w => s.waitFor w

/-- An attempt for the ACTIVE order, record i (R57 to R61). -/
def attemptOrder (s : State) (i : Nat) : State :=
  let o := s.orderAt i
  match s.choose o with
  | .paper => (s.waitFor s.firstWait).addHold i .paper
  | .change m => s.tryChange m
  | .frame item => match s.transport.threaded, o.frameGeom item with
    | some m, some g => s.startIfClear m g (some ⟨o.number, i, item⟩)
    | _, _ => s

/-- The line is in a flush or a changeover. -/
def atWork (s : State) : Bool :=
  match s.ctl.line with
  | .flushing | .changeover => true
  | _ => false

/-- An effect on the scheduler waits for the end of the flush or changeover under way (R103, R118; log 28). -/
def defer (s : State) : State := { s with sched.deferred := true }

/-- What an attempt settles, and what becomes of it (R60, R64). -/
def settleAttempt (s : State) : State :=
  if s.cal.pattern then s.attemptTest
  else match s.current with
    | some i => s.attemptOrder i
    | none => s.waitFor s.firstWait

/-- A frame start attempt (R60). None is made while a frame is being exposed, nor until a calibration in
progress ends (R63). While an effect on the scheduler waits for the end of a flush or changeover, an attempt
records the wait cause only; the attempt at that end takes the effect (R103, R118; log 28). -/
def attempt (s : State) : State :=
  if s.writing || s.ctl.line == .calibrating then s
  else if s.atWork && s.sched.deferred then s.waitFor s.firstWait
  else { s with sched.deferred := false }.settleAttempt

/-- An attempt, when an event of R60 has come. -/
def runAttempt (s : State) : State :=
  if s.due.attempt then { s with due.attempt := false }.attempt else s

/-! ### Bringing a command to rest -/

/-- A slot's state has entered READY, or LOW from ABSENT or UNUSABLE (R58). The LOW of a slot that a changeover
gives up is the event of `giveUp` (R125). -/
def enters (before after : MagState) : Bool :=
  match before, after with
  | .ready, .ready => false
  | _, .ready => true
  | .absent, .low | .unusable, .low => true
  | _, _ => false

/-- An event of R58 on the slot: its state has entered as `enters` says. -/
def slotEvent (before s : State) (m : MagSlot) : Bool := enters (before.magState m) (s.magState m)

/-- The event is an insertion that finds a flush or a changeover under way (R118): its attempt waits. -/
def slotWaits (before s : State) (m : MagSlot) : Bool :=
  s.atWork &&
    match before.magState m with
    | .absent | .unusable => true
    | _ => false

/-- The release events of R58 that the slots' states show: PAPER is released at once, and each is an attempt
event (R60), one that waits where `slotWaits` says so. -/
def paperEvents (before s : State) : State :=
  let e1 := slotEvent before s .m1
  let e2 := slotEvent before s .m2
  let w1 := slotWaits before s .m1
  let w2 := slotWaits before s .m2
  if e1 || e2 then
    let t := if (e1 && w1) || (e2 && w2) then s.releasePaper.defer else s.releasePaper
    if (e1 && !w1) || (e2 && !w2) then t.dueAttempt else t
  else s

/-- The end of a flush: the web list is empty (R68, R140). Under the ENCODER condition the line goes to
FAULT with ENCODER instead (R114). -/
def endFlush (s : State) : State :=
  if s.ctl.line == .flushing && s.cutter.web.isEmpty then
    let s := s.clearRequest.dueScan.dueAttempt
    if s.transport.encoder then s.addCause .encoder else s.setLine .stopped
  else s

/-- The first two steps of R63 at a frame end, and the events of the fourth. -/
def frameEndSteps (s : State) : State :=
  if s.due.frameEnd then
    let s := match s.current with
      | some i => if (s.orderAt i).holds.isEmpty then s else s.setOrderState i .held
      | none => s
    let s := if s.ctl.pausePending then
      { s with ctl.runEnable := false, ctl.pausePending := false } else s
    { s with due.frameEnd := false }.dueScan.dueAttempt
  else s

/-- The encoder response owed once the line is STOPPED or in FAULT with no frame being written (R114). -/
def encoderRespond (s : State) : State :=
  if s.transport.encoder && !s.ctl.faults.encoder && !s.writing then
    match s.ctl.line with
    | .stopped => if s.cutter.web.isEmpty then s.addCause .encoder else s.startFlush
    | .fault => s.addCause .encoder
    | _ => s
  else s

/-- A pending calibration starts (R96). -/
def startPending (s : State) : State :=
  match s.cal.pending with
  | none => s
  | some k =>
    if s.writing then s
    else match s.ctl.line with
      | .stopped | .fault | .exposing => s.startCalibration k
      | _ => s

/-- Scan and attempt; a PAPER hold of the attempt opens the boundary, which brings one more of each. -/
def schedule (s : State) : State := s.runScan.runAttempt.runScan.runAttempt

/-- A frame end after which no frame starts stops the line (R63, R165). -/
def leaveExposing (s : State) : State :=
  if s.ctl.line == .exposing && !s.writing then s.setLine .stopped else s

/-- A timer that runs exactly while `b` holds: it keeps its start, or starts now. -/
def timer (s : State) (b : Bool) (t : Option Nat) : Option Nat :=
  if b then some (t.getD s.ms) else none

/-- The standby timer's conditions (R173). -/
def standbyRuns (s : State) : Bool :=
  s.ctl.line == .stopped && s.cutter.web.isEmpty && s.cal.pending.isNone && s.ctl.timeout != 0

/-- The flush timer's conditions (R67). -/
def flushRuns (s : State) : Bool := s.ctl.line == .stopped && !s.cutter.web.isEmpty

/-- What the head's outputs present between lines (R70, R97): code 0 in IDLE, and the line strobed last in a
frame or closing gap, code 0 before its line 0 (log 14). -/
def headDrive (s : State) : HeadDrive :=
  if s.ctl.line == .calibrating then .measuring
  else match s.engine.work with
    | .idle => .zero
    | .frame c => if c.next = 0 then .zero else s.engine.presented
    | .closing _ next => if next = 0 then .zero else s.engine.presented

/-- Timers, motor, head outputs and level flags follow the state; no event is left due. `k` is the number
of strobed lines held before the command. -/
def sync (s : State) (k : Nat) : State :=
  { s.syncMotor with
    sched.flushTimer := s.timer s.flushRuns s.sched.flushTimer
    ctl.standbyTimer := s.timer s.standbyRuns s.ctl.standbyTimer
    engine.presented := s.headDrive
    engine.strobed := s.engine.strobed.drop k
    due := Due.none }.syncFlags

/-- Everything a command brings about once its own block has acted (log 10), in the order of the rules:
release events, the end of a flush, the end of a frame, the encoder response, a pending calibration, scan
and attempt, the line's stop. -/
def settle (before s : State) : State :=
  let s := (paperEvents before s).endFlush.frameEndSteps
  let s := s.encoderRespond.startPending.schedule
  let s := s.leaveExposing.encoderRespond.startPending
  s.sync before.engine.strobed.length

end State

end Sys2Proof.Machine
end

