-- ==== Sys2Proof/Machine/PortOps.lean ====
section
/-! DEFINITION. The dispatch of requests by the ports (11.2): the role check, the reply placed in the
holder, and the answers a request's block gives. -/

namespace Sys2Proof.Machine

/-- What `exec` answers. -/
abbrev Out := Host.Outcome State Fault Refusal

/-- What a block answers to a request: the state after it, the status and the payload. -/
structure Answer where
  state : State
  status : Status
  payload : List Byte

/-- A refusal without payload: nothing is changed (R179). -/
def refuse (s : State) (st : Status) : Answer := ⟨s, st, []⟩

/-- A request carried out: the state is brought to rest. -/
def done (before after : State) (payload : List Byte) : Answer := ⟨State.settle before after, .ok, payload⟩

/-- A request whose work ends later (R180). -/
def accepted (before after : State) : Answer := ⟨State.settle before after, .accepted, []⟩

/-- A reading request: nothing is changed. -/
def readOut (s : State) (payload : List Byte) : Answer := ⟨s, .ok, payload⟩

/-- Bytes of a request frame: code, tag, and length field with the parameters (12.1, 12.7). -/
def requestFrameLength (code : Nat) : Nat := 4 + (requestLength code).getD 0

/-- The reply of a request is placed in its port's holder, replacing any held (R179); during its frame data
out has presented 0 in every bit (R176). -/
def State.place (s : State) (h : Hdr) (code : Nat) (st : Status) (payload : List Byte) : State :=
  s.modPort (fun p => { p with
    holder := some ⟨st, h.tag, byte code, payload⟩
    out := List.replicate (requestFrameLength code) 0 }) h.port

/-- A request of code `code` open to `roles` (R179): E_ROLE on another port, else its block's answer. -/
def serve (s : State) (h : Hdr) (code : Nat) (roles : List Port) (a : Answer) : Out :=
  .next (if roles.contains h.port then a.state.place h code a.status a.payload
    else s.place h code .eRole [])

/-- An event carried out: the state is brought to rest. -/
def event (before after : State) : Out := .next (State.settle before after)

/-- The ports a request is open to (R179). -/
def orderPort : List Port := [.order]
def tillPort : List Port := [.till]
def linePort : List Port := [.line]
def tillAndLine : List Port := [.till, .line]
def everyPort : List Port := [.order, .till, .line]

end Sys2Proof.Machine
end

