-- ==== Sys2Proof/Machine/OrderPort.lean ====
section
/-! DEFINITION. The requests of the order port (chapter 1): building an order, loading images. -/

namespace Sys2Proof.Machine

/-- The counters of an item or index just made with quantity q (R4, R6). -/
def Counts.new (q : Nat) : Counts := { q := q, c := 0, d := 0, w := 0, p := q, s := 0, spoil := 0 }

namespace State

/-- ORDER_OPEN (R2). -/
def orderOpen (s : State) (a : OrderOpenArgs) : Answer :=
  match originOf a.origin, serviceOf a.service, yesNo a.index with
  | some origin, some service, some index =>
    if a.number.toNat = 0 ∨ 500 < a.promo.toNat then refuse s .eRange
    else if (s.findLive a.number.toNat).isSome then refuse s .eDuplicate
    else match firstRecord (fun o => !o.live) s.book.records with
      | none => refuse s .eFull
      | some i =>
        let t := s.modOrder i fun _ =>
          { Order.free with
            number := a.number.toNat, state := .opened, origin := origin, service := service
            promo := a.promo.toNat, indexRequested := index
            index := if index then some ⟨none, Counts.new 1⟩ else none }
        done s { t with engine.bpCounters := modAt (fun _ => 0) t.engine.bpCounters i } []
  | _, _, _ => refuse s .eRange

/-- The item an ITEM_ADD gives, when its values are in range (R4). -/
def itemOf (a : ItemAddArgs) : Option Item :=
  match mirrorOf a.mirror, yesNo a.rotate, rgbSignedWithin a.trims 30 with
  | some mirror, some rotate, some trims =>
    if a.slot.toNat ≤ 511 ∧ a.product.toNat ≤ 15 ∧ within a.qty.toNat 1 99 then
      some { slot := a.slot.toNat, product := a.product.toNat, mirror := mirror, rotate := rotate,
             trims := trims, n := Counts.new a.qty.toNat }
    else none
  | _, _, _ => none

/-- ITEM_ADD (R4). -/
def itemAdd (s : State) (a : ItemAddArgs) : Answer :=
  match s.findLive a.number.toNat with
  | none => refuse s .eNoOrder
  | some i =>
    let o := s.orderAt i
    if o.state != .opened then refuse s .eState
    else match itemOf a with
      | none => refuse s .eRange
      | some x =>
        if Config.itemsPerOrder ≤ o.items.length then refuse s .eLimit
        else if Config.itemPool ≤ s.itemsUsed then refuse s .eFull
        else if (s.images.slot x.slot).state == .free then refuse s .eImage
        else
          let t := s.modOrder i fun o => { o with items := o.items ++ [x] }
          done s { t with images := t.images.addRef x.slot } [byte (o.items.length + 1)]

/-- ITEM_REMOVE (R5). -/
def itemRemove (s : State) (number : Half) (item : Byte) : Answer :=
  match s.findLive number.toNat with
  | none => refuse s .eNoOrder
  | some i =>
    let o := s.orderAt i
    if o.state != .opened then refuse s .eState
    else if item.toNat = 0 then refuse s .eRange
    else match o.items[item.toNat - 1]? with
      | none => refuse s .eRange
      | some x =>
        let t := s.modOrder i fun o => o.dropItem item.toNat
        done s { t with images := t.images.dropRef x.slot } []

/-- IMAGE_LOAD (R28). -/
def imageLoad (s : State) (slot width height : Half) : Answer :=
  let k := slot.toNat
  let w := width.toNat
  let h := height.toNat
  if !(decide (k ≤ 511) && within w 16 6100 && within h 16 12200) then refuse s .eRange
  else if s.images.load.isSome then refuse s .eBusy
  else
    let x := s.images.slot k
    if x.state == .loaded && decide (0 < x.refs) then refuse s .eInUse
    else if s.images.freePages + x.pages.length < pagesFor w h then refuse s .eMemory
    else
      let m := s.images.modSlot k fun x => { x with pages := [] }
      let pages := m.take (pagesFor w h)
      let m := m.modSlot k fun x =>
        { x with state := .loading, size := some ⟨w, h⟩, pages := pages }
      accepted s { s with images := { m with load := some ⟨k, 0, false⟩ } }

/-- IMAGE_RELEASE (R31). -/
def imageRelease (s : State) (slot : Half) : Answer :=
  let k := slot.toNat
  if 511 < k then refuse s .eRange
  else
    let x := s.images.slot k
    if 0 < x.refs then refuse s .eInUse
    else match x.state with
      | .free => done s s []
      | .loaded => done s (s.freeSlot k) []
      | .loading => done s (s.loadFault k) []

/-- The image of an item is LOADED (R12). -/
def itemLoaded (s : State) (x : Item) : Bool := (s.images.slot x.slot).state == .loaded

/-- The image of an item has its product's size in the active table (R12). -/
def itemFits (s : State) (x : Item) : Bool :=
  let g := (s.prices.active.product x.product).geom
  match (s.images.slot x.slot).size with
  | none => false
  | some z =>
    if x.rotate then z.width == 20 * g.along && z.height == 20 * g.across
    else z.width == 20 * g.across && z.height == 20 * g.along

/-- The item's product is enabled in the active table (R12). -/
def itemEnabled (s : State) (x : Item) : Bool := (s.prices.active.product x.product).enabled

/-- The index product is enabled in the active table, where an index is requested (R12). -/
def indexEnabled (s : State) (o : Order) : Bool :=
  !o.indexRequested || (s.prices.active.product s.prices.active.globals.indexProduct).enabled

/-- Position of the first item that fails a check. -/
def firstFailing (p : Item → Bool) (xs : List Item) : Option Nat :=
  (xs.findIdx? fun x => !p x).map (· + 1)

/-- Σq over the items, plus 1 when an index is requested (R12). -/
def ordered (o : Order) : Nat :=
  total (o.items.map fun x => x.n.q) + if o.indexRequested then 1 else 0

/-- What an accepted ORDER_COMMIT writes into the record, but for its state (R13, R41, R49). -/
def committed (s : State) (o : Order) (prepaid : Bool) : Order :=
  let o := { o with promo := min o.promo s.prices.active.globals.promoMax }
  let l := priceLock s.prices o
  { o with
    lock := some l
    index := o.index.map fun x => { x with product := some l.globals.indexProduct }
    sequence := some (s.book.sequence + 1)
    paid := if prepaid then some l.quote.f else o.paid }

/-- The seven values, 4 bytes each. -/
def breakdownBytes (b : Breakdown) : List Byte :=
  le32 b.g ++ le32 b.e ++ le32 b.d ++ le32 b.n ++ le32 b.t ++ le32 b.a ++ le32 b.f

/-- An ORDER_COMMIT that passes R12 (R13). -/
def commit (s : State) (i : Nat) (prepaid : Bool) : Answer :=
  let o := s.committed (s.orderAt i) prepaid
  let t := { s.modOrder i (fun _ => o) with book.sequence := s.book.sequence + 1 }
  let t := t.setOrderState i .queued
  let t := if t.ctl.wakeCommit then t.wake else t
  done s t (match o.lock with
    | some l => breakdownBytes l.quote
    | none => [])

/-- ORDER_COMMIT: the checks of R12 (prepaid other than yes or no is refused first, log 8). They keep R12's
order before the first activation too, E_SIZE before the E_PRODUCT of R32 (log 43). -/
def orderCommit (s : State) (number : Half) (prepaid : Byte) : Answer :=
  match yesNo prepaid with
  | none => refuse s .eRange
  | some pre =>
    match s.findLive number.toNat with
    | none => refuse s .eNoOrder
    | some i =>
      let o := s.orderAt i
      if o.state != .opened || (pre && o.origin != .online) then refuse s .eState
      else if o.items.isEmpty then refuse s .eEmpty
      else match firstFailing s.itemLoaded o.items with
        | some k => ⟨s, .eImage, [byte k]⟩
        | none => match firstFailing s.itemFits o.items with
          | some k => ⟨s, .eSize, [byte k]⟩
          | none => match firstFailing s.itemEnabled o.items with
            | some k => ⟨s, .eProduct, [byte k]⟩
            | none =>
              if !s.indexEnabled o then ⟨s, .eProduct, [0]⟩
              else if 400 < ordered o then refuse s .eQuantity
              else if 4294967295 ≤ s.book.sequence then refuse s .eLimit
              else s.commit i pre

/-- ORDER_WITHDRAW (R15). The counters stay as a skip or a reprint has left them (log 41). -/
def orderWithdraw (s : State) (number : Half) : Answer :=
  match s.findLive number.toNat with
  | none => refuse s .eNoOrder
  | some i =>
    let o := s.orderAt i
    if o.state != .queued || o.started || o.paid.isSome then refuse s .eState
    else
      let t := (s.setOrderState i .opened).freeBinList o.bins
      done s (t.modOrder i fun o =>
        { o with
          lock := none, sequence := none, settled := none, bins := []
          index := o.index.map fun x => { x with product := none } }) []

/-- ORDER_DISCARD (R16). -/
def orderDiscard (s : State) (number : Half) : Answer :=
  match s.findLive number.toNat with
  | none => refuse s .eNoOrder
  | some i =>
    if (s.orderAt i).state != .opened then refuse s .eState else done s (s.freeOrder i) []

end State

/-! ### The meanings -/

/-- ORDER_OPEN (R2). -/
def execOrderOpen (h : Hdr) (a : OrderOpenArgs) (s : State) : Out :=
  serve s h 1 orderPort (s.orderOpen a)

/-- ITEM_ADD (R4). -/
def execItemAdd (h : Hdr) (a : ItemAddArgs) (s : State) : Out := serve s h 2 orderPort (s.itemAdd a)

/-- ITEM_REMOVE (R5). -/
def execItemRemove (h : Hdr) (number : Half) (item : Byte) (s : State) : Out :=
  serve s h 3 orderPort (s.itemRemove number item)

/-- IMAGE_LOAD (R28). -/
def execImageLoad (h : Hdr) (slot width height : Half) (s : State) : Out :=
  serve s h 4 orderPort (s.imageLoad slot width height)

/-- IMAGE_RELEASE (R31). -/
def execImageRelease (h : Hdr) (slot : Half) (s : State) : Out :=
  serve s h 5 orderPort (s.imageRelease slot)

/-- ORDER_COMMIT (R12, R13). -/
def execOrderCommit (h : Hdr) (number : Half) (prepaid : Byte) (s : State) : Out :=
  serve s h 6 orderPort (s.orderCommit number prepaid)

/-- ORDER_WITHDRAW (R15). -/
def execOrderWithdraw (h : Hdr) (number : Half) (s : State) : Out :=
  serve s h 7 orderPort (s.orderWithdraw number)

/-- ORDER_DISCARD (R16). -/
def execOrderDiscard (h : Hdr) (number : Half) (s : State) : Out :=
  serve s h 8 orderPort (s.orderDiscard number)

end Sys2Proof.Machine
end

