-- ==== Sys2Proof/Machine/TillPort.lean ====
section
/-! DEFINITION. The requests of the till port (chapters 1 and 2): prices, settlement, payment,
collection, cancellation, holds and reprints. -/

namespace Sys2Proof.Machine

/-- The tiers a PRICE_STAGE gives: as many as its tier count (R33). -/
def tiersGiven (a : PriceStageArgs) : List Tier :=
  ([a.tier1, a.tier2, a.tier3].take a.tierCount.toNat).map fun t => ⟨t.qty.toNat, t.price.toNat⟩

/-- The product entry a PRICE_STAGE gives, when its values are in range (R33, first check). -/
def productOf (a : PriceStageArgs) : Option Product :=
  match yesNo a.enabled, widthOf a.width.toNat, productSurfaceOf a.surface with
  | some enabled, some across, some surface =>
    if a.product.toNat ≤ 15 ∧ within a.along.toNat 76 610 ∧ a.base.toNat ≤ 50000 ∧ a.tierCount.toNat ≤ 3
    then
      some { enabled := enabled, geom := ⟨across, a.along.toNat, surface⟩, base := a.base.toNat,
             tiers := tiersGiven a }
    else none
  | _, _, _ => none

/-- A cash step of the globals table (R35). -/
def cashStepValid (n : Nat) : Bool := [1, 2, 5, 10, 20, 50, 100].contains n

/-- The globals a PRICE_STAGE_GLOBALS gives, when all are in range (R35). -/
def globalsOf (a : GlobalsArgs) : Option Globals :=
  if a.express.toNat ≤ 1000 ∧ a.promoMax.toNat ≤ 500 ∧ a.indexPrice.toNat ≤ 50000 ∧
      a.indexProduct.toNat ≤ 15 ∧ a.minCharge.toNat ≤ 50000 ∧ a.tax.toNat ≤ 3000 ∧
      cashStepValid a.cashStep.toNat then
    some { express := a.express.toNat, promoMax := a.promoMax.toNat, indexPrice := a.indexPrice.toNat,
           indexProduct := a.indexProduct.toNat, minCharge := a.minCharge.toNat, tax := a.tax.toNat,
           cashStep := a.cashStep.toNat }
  else none

/-- The hold reason of a port (R19). -/
def holdOf (p : Port) : Hold := if p = .till then .till else .operator

/-- What ORDER_RELEASE from a port removes (R21): TILL, or OPERATOR and FAULT with the spoil counts above
3 set to 0. -/
def Order.release (o : Order) (p : Port) : Order :=
  if p = .till then { o with holds.till := false }
  else
    { o with holds.operator := false, holds.fault := false }.mapCounts fun n =>
      { n with spoil := if 3 < n.spoil then 0 else n.spoil }

/-- The amount due (R43): settled F less paid, when positive. -/
def amountDue (f : Nat) (paid : Option Nat) : Nat := f - orZero paid

/-- The figure in force (R48): settled F when present, else the locked F. -/
def Order.figure (o : Order) : Nat :=
  match o.settled, o.lock with
  | some x, _ => x.values.f
  | none, some l => l.quote.f
  | none, none => 0

/-- A committed record that is not VOID (R17, R48). -/
def Order.committedState (o : Order) : Bool :=
  match o.state with
  | .queued | .active | .held | .draining | .ready => true
  | _ => false

/-- A record refused by ORDER_HOLD, ORDER_RELEASE and ITEM_SKIP: OPEN, READY or VOID (R11, R19, R21). -/
def Order.outsideHold (o : Order) : Bool :=
  match o.state with
  | .opened | .ready | .void | .free => true
  | _ => false

namespace State

/-- PRICE_STAGE (R33). -/
def priceStage (s : State) (a : PriceStageArgs) : Answer :=
  match productOf a with
  | none => refuse s .eRange
  | some p =>
    if !tiersValid p.base p.tiers then refuse s .eTable
    else
      done s { s with
        prices.staged.products := modAt (fun _ => p) s.prices.staged.products a.product.toNat } []

/-- PRICE_STAGE_GLOBALS (R35). -/
def priceStageGlobals (s : State) (a : GlobalsArgs) : Answer :=
  match globalsOf a with
  | none => refuse s .eRange
  | some g => done s { s with prices.staged.globals := g } []

/-- PRICE_ACTIVATE (R36). -/
def priceActivate (s : State) : Answer :=
  let g := (s.prices.generation + 1) % 65536
  done s ({ s with prices.active := s.prices.staged, prices.generation := g }.raise .pricesActivated)
    (le16 g)

/-- The settlement of the record, when its state allows one (R43). -/
def settledOf (s : State) (i : Nat) : Option Settled :=
  let o := s.orderAt i
  match o.state, o.lock with
  | .ready, some l => some (settlement l o)
  | .void, some l => some (voidSettlement l)
  | _, _ => none

/-- ORDER_SETTLE (R43 to R46). -/
def orderSettle (s : State) (number : Half) : Answer :=
  match s.findLive number.toNat with
  | none => refuse s .eNoOrder
  | some i => match s.settledOf i with
    | none => refuse s .eState
    | some x =>
      let paid := (s.orderAt i).paid
      done s (s.modOrder i fun o => { o with settled := some x })
        (breakdownBytes x.values ++ [flag paid.isSome] ++ le32 (orZero paid) ++
          le32 (amountDue x.values.f paid))

/-- ORDER_PAY (R48). -/
def orderPay (s : State) (number : Half) (amount : Wide) : Answer :=
  match s.findLive number.toNat with
  | none => refuse s .eNoOrder
  | some i =>
    let o := s.orderAt i
    let n := amount.toNat
    if Config.moneyBound < n then refuse s .eRange
    else if !o.committedState then refuse s .eState
    else if o.paid.isSome then refuse s .ePaid
    else if n < o.figure then refuse s .eShortPay
    else
      done s (s.modOrder i fun o => { o with paid := some n }) (le32 n ++ le32 (n - o.figure))

/-- ORDER_COLLECT (R50, R160). -/
def orderCollect (s : State) (number : Half) : Answer :=
  match s.findLive number.toNat with
  | none => refuse s .eNoOrder
  | some i =>
    let o := s.orderAt i
    match o.settled with
    | none => refuse s .eState
    | some x =>
      if o.state != .ready then refuse s .eState
      else if orZero o.paid < x.values.f then refuse s .eShortPay
      else
        done s ((s.freeBinList o.bins).freeOrder i)
          (le32 x.values.f ++ le32 (orZero o.paid) ++ le32 (orZero o.paid - x.values.f))

/-- A committed order is cancelled (R17, R51, R161). -/
def cancel (s : State) (i : Nat) : State :=
  let o := s.orderAt i
  let t := s.giveBinList o.bins
  let t := t.modOrder i fun o =>
    { o.mapCounts fun n => { n with p := 0, s := n.s + n.p } with
      holds := Holds.none, bins := [], paid := none, settled := none }
  if o.sum (·.w) = 0 then t.freeOrder i else t.setOrderState i .void

/-- ORDER_CANCEL (R17). -/
def orderCancel (s : State) (number : Half) : Answer :=
  match s.findLive number.toNat with
  | none => refuse s .eNoOrder
  | some i =>
    let o := s.orderAt i
    if o.state == .opened then done s (s.freeOrder i) ([0] ++ le32 0)
    else if !o.committedState then refuse s .eState
    else
      done s (s.cancel i)
        ([byte (orderStateCode (if o.sum (·.w) = 0 then .free else .void))] ++ le32 (orZero o.paid))

/-- ORDER_HOLD (R19, R20). -/
def orderHold (s : State) (p : Port) (number : Half) : Answer :=
  match s.findLive number.toNat with
  | none => refuse s .eNoOrder
  | some i =>
    if (s.orderAt i).outsideHold then refuse s .eState else done s (s.addHold i (holdOf p)) []

/-- ORDER_RELEASE (R21). -/
def orderRelease (s : State) (p : Port) (number : Half) : Answer :=
  match s.findLive number.toNat with
  | none => refuse s .eNoOrder
  | some i =>
    if (s.orderAt i).outsideHold then refuse s .eState
    else done s ((s.modOrder i fun o => o.release p).leaveHeld i) []

/-- The prints an order may still be charged and given: Σq, the index, Σc (R26). -/
def printsWith (o : Order) (n : Nat) : Nat := ordered o + total (o.items.map fun x => x.n.c) + n

/-- ORDER_REPRINT (R26, R159). -/
def orderReprint (s : State) (number : Half) (item n : Byte) : Answer :=
  match s.findLive number.toNat with
  | none => refuse s .eNoOrder
  | some i =>
    let o := s.orderAt i
    let k := n.toNat
    if o.state != .ready then refuse s .eState
    else if item.toNat = 0 ∨ ¬ within k 1 9 then refuse s .eRange
    else match o.items[item.toNat - 1]? with
      | none => refuse s .eRange
      | some x =>
        if 20 < x.n.c + k ∨ 400 < printsWith o k then refuse s .eQuantity
        else
          let t := s.moveCounts i item.toNat fun m => { m with c := m.c + k, p := m.p + k }
          let t := (t.reopenBins o.bins).setOrderState i .queued
          done s (if t.ctl.wakeReprint then t.wake else t) []

end State

/-! ### The meanings -/

/-- PRICE_STAGE (R33). -/
def execPriceStage (h : Hdr) (a : PriceStageArgs) (s : State) : Out :=
  serve s h 9 tillPort (s.priceStage a)

/-- PRICE_STAGE_GLOBALS (R35). -/
def execPriceStageGlobals (h : Hdr) (a : GlobalsArgs) (s : State) : Out :=
  serve s h 10 tillPort (s.priceStageGlobals a)

/-- PRICE_ACTIVATE (R36). -/
def execPriceActivate (h : Hdr) (s : State) : Out := serve s h 11 tillPort s.priceActivate

/-- ORDER_SETTLE (R43). -/
def execOrderSettle (h : Hdr) (number : Half) (s : State) : Out :=
  serve s h 12 tillPort (s.orderSettle number)

/-- ORDER_PAY (R48). -/
def execOrderPay (h : Hdr) (number : Half) (amount : Wide) (s : State) : Out :=
  serve s h 13 tillPort (s.orderPay number amount)

/-- ORDER_COLLECT (R50). -/
def execOrderCollect (h : Hdr) (number : Half) (s : State) : Out :=
  serve s h 14 tillPort (s.orderCollect number)

/-- ORDER_CANCEL (R17). -/
def execOrderCancel (h : Hdr) (number : Half) (s : State) : Out :=
  serve s h 15 tillPort (s.orderCancel number)

/-- ORDER_HOLD (R19). -/
def execOrderHold (h : Hdr) (number : Half) (s : State) : Out :=
  serve s h 16 tillAndLine (s.orderHold h.port number)

/-- ORDER_RELEASE (R21). -/
def execOrderRelease (h : Hdr) (number : Half) (s : State) : Out :=
  serve s h 17 tillAndLine (s.orderRelease h.port number)

/-- ORDER_REPRINT (R26). -/
def execOrderReprint (h : Hdr) (number : Half) (item n : Byte) (s : State) : Out :=
  serve s h 18 tillPort (s.orderReprint number item n)

end Sys2Proof.Machine
end

