-- ==== Sys2Proof/Machine/LinePort.lean ====
section
/-! DEFINITION. The requests of the line port that run, pause, reset and wake the line and clear its
faults, and those that act on orders, bins and the processor (chapters 1, 8, 9, 10). -/

namespace Sys2Proof.Machine

/-- A window of ROUTE_SET, when its bank is valid and its base does not exceed its limit (R154). -/
def windowOf (a : WindowArg) : Option Window :=
  match bankOf a.bank with
  | some k => if a.base.toNat ≤ a.limit.toNat then some ⟨a.base.toNat, a.limit.toNat, k⟩ else none
  | none => none

/-- The causes named, of those in the set, that FAULT_CLEAR removes: named, present and their condition
gone (R169). -/
def FaultSet.cleared (f named gone : FaultSet) : FaultSet :=
  { paperBreak := f.paperBreak && named.paperBreak && gone.paperBreak
    jam := false
    encoder := false
    cutter := f.cutter && named.cutter && gone.cutter
    head := f.head && named.head && gone.head
    rejectFull := f.rejectFull && named.rejectFull && gone.rejectFull }

/-- A set less another. -/
def FaultSet.minus (f g : FaultSet) : FaultSet :=
  { paperBreak := f.paperBreak && !g.paperBreak
    jam := f.jam && !g.jam
    encoder := f.encoder && !g.encoder
    cutter := f.cutter && !g.cutter
    head := f.head && !g.head
    rejectFull := f.rejectFull && !g.rejectFull }

namespace State

/-- LINE_RUN (R166). -/
def lineRun (s : State) : Answer :=
  if !s.cal.calibrated then refuse s .eState
  else done s { s with ctl.runEnable := true, ctl.pausePending := false }.dueScan.dueAttempt []

/-- LINE_PAUSE (R166). -/
def linePause (s : State) : Answer :=
  if s.writing then done s { s with ctl.pausePending := true } []
  else done s { s with ctl.runEnable := false, ctl.pausePending := false } []

/-- The ACTIVE order at a line reset, its spoils taken (R25). -/
def resetActive (s : State) : State :=
  match s.current with
  | none => s
  | some i =>
    let o := s.orderAt i
    s.setOrderState i (if o.holds.isEmpty then stateByCounts o else .held)

/-- The line-reset values of the transport (R108, R116). -/
def resetTransport (s : State) : State :=
  { s with
    transport.position := 0
    transport.motor := false
    transport.indexRef := none
    transport.mismatches := 0
    transport.speed := none
    transport.pulseUs := none
    transport.matched := false
    transport.encoder := false
    transport.deadReckoning := none
    transport.probe := none
    transport.threaded := none
    transport.changeover := none }

/-- The line-reset values of calibration unit, scheduler and line controller (R52, R93, R171). -/
def resetControl (s : State) : State :=
  { s with
    cal.run := none
    cal.pending := none
    cal.pattern := false
    cal.test := none
    sched.request := none
    sched.flushTimer := none
    sched.waitCause := .runEnable
    sched.queueBlocked := false
    sched.deferred := false
    ctl.runEnable := false
    ctl.pausePending := false
    ctl.faults := { FaultSet.none with jam := s.ctl.faults.jam }
    ctl.standbyTimer := none
    ctl.wakeTimer := none
    ctl.lastProbe := .none }

/-- The effects of a line reset taken outside STANDBY, as one step (R171). -/
def resetLine (s : State) : State :=
  let t := s.cutOffEngine.dropWeb.resetActive.resetTransport.resetControl
  { t.setLine (if t.noFault then .stopped else .fault) with due := Due.none }

/-- LINE_RESET (R171, R172). -/
def lineReset (s : State) : Answer :=
  if s.ctl.line == .standby then ⟨s, .ok, []⟩ else done s s.resetLine []

/-- LINE_WAKE (R174): outside STANDBY it restarts a running standby timer. -/
def lineWake (s : State) : Answer :=
  if s.ctl.line == .standby then done s s.wake []
  else done s { s with ctl.standbyTimer := s.ctl.standbyTimer.map fun _ => s.ms } []

/-- The causes whose conditions have gone (R169). -/
def conditionsGone (s : State) : FaultSet :=
  { paperBreak := s.magState .m1 == .ready || s.magState .m2 == .ready
    jam := false
    encoder := false
    cutter := s.cutter.homeInput
    head := s.cal.calibrated
    rejectFull := decide (s.sorter.reject < 200) }

/-- FAULT_CLEAR starts a clear probe (R170). -/
def startsProbe (s : State) (named : FaultSet) : Bool :=
  named.encoder && s.ctl.faults.encoder && s.ctl.line == .fault && !s.writing && s.transport.probe.isNone

/-- A clear probe starts (R115). -/
def startProbe (s : State) : State :=
  { s with transport.probe := some ⟨s.ms, 0⟩, ctl.lastProbe := .running }.syncMotor

/-- FAULT_CLEAR (R169, R170). -/
def faultClear (s : State) (causes : Byte) : Answer :=
  let named := faultsOf causes
  if named == FaultSet.none then refuse s .eRange
  else
    let removed := s.ctl.faults.cleared named s.conditionsGone
    let probe := s.startsProbe named
    let t := s.setFaults (s.ctl.faults.minus removed)
    let t := State.settle s (if probe then t.startProbe else t)
    ⟨t, if probe then .accepted else .ok, [byte (faultsCode removed), byte (faultsCode t.ctl.faults)]⟩

/-- ROUTE_SET (R154). -/
def routeSet (s : State) (w1 w2 : WindowArg) : Answer :=
  match windowOf w1, windowOf w2 with
  | some a, some b => done s { s with sorter.window1 := a, sorter.window2 := b }.dueScan []
  | _, _ => refuse s .eRange

/-- BIN_EMPTIED (R162). -/
def binEmptied (s : State) (bin : Byte) : Answer :=
  let b := bin.toNat
  if 24 < b then refuse s .eRange
  else if b = 0 then done s { s with sorter.reject := 0 } []
  else match (s.sorter.bin b).state with
    | .purge => done s (s.freeBinList [b]) []
    | .free => done s s []
    | _ => refuse s .eState

/-- The state an order takes when a skip leaves no pending print (R11). -/
def afterSkip (s : State) (i : Nat) : State :=
  let o := s.orderAt i
  if 0 < o.sum (·.p) then s
  else match o.state with
    | .queued => s.setOrderState i (stateByCounts o)
    | .active =>
      s.setOrderState i (if 0 < o.sum (·.w) ∧ !o.holds.isEmpty then .held else stateByCounts o)
    | _ => s

/-- ITEM_SKIP (R11). -/
def itemSkip (s : State) (number : Half) (item : Byte) : Answer :=
  match s.findLive number.toNat with
  | none => refuse s .eNoOrder
  | some i =>
    if (s.orderAt i).outsideHold then refuse s .eState
    else match (s.orderAt i).countsAt item.toNat with
      | none => refuse s .eRange
      | some n =>
        let t := s.moveCounts i item.toNat fun m => { m with p := 0, s := m.s + m.p }
        done s (t.afterSkip i) [byte n.p]

/-- Due times moved on by the stopped duration (R151). -/
def shiftDue (s : State) (by_ : Nat) : State :=
  { s with monitor.sheets := s.monitor.sheets.map fun x => { x with due := x.due + by_ } }

/-- JAM_CLEAR (R151). -/
def jamClear (s : State) (count : Half) : Answer :=
  let n := count.toNat
  if 600 < n then refuse s .eRange
  else match s.monitor.stop with
    | none => refuse s .eState
    | some since =>
      if s.monitor.sheets.length < n then refuse s .eRange
      else
        let stopped := s.ms - since
        let t := (s.loseHeads n).shiftDue stopped
        let t := { t with monitor.stop := none }
        let t := (t.setFaults (t.ctl.faults.put false .jam)).startPump.checkWatchdog
        done s t (le16 n ++ le32 stopped)

/-- PROCESSOR_CONFIG (R144): a pump pulse that the new unit makes pending starts before a watchdog past its new
expiry expires (log 38). -/
def processorConfig (s : State) (a : ProcessorArgs) : Answer :=
  if !(within a.budget.toNat 1000 60000 && within a.replUnit.toNat 100 10000 &&
      within a.replPulse.toNat 10 2000 && within a.transit.toNat 60 900 && within a.tol.toNat 5 120) then
    refuse s .eRange
  else
    let m := { s.monitor with
      budget := a.budget.toNat, replUnit := a.replUnit.toNat, replPulse := a.replPulse.toNat
      transit := a.transit.toNat, tol := a.tol.toNat }
    done s { s with monitor := m.convert }.startPump.checkWatchdog []

/-- The line enters STANDBY (R173): head power off, the head not calibrated. -/
def enterStandby (s : State) : State := { s with cal.calibrated := false }.setLine .standby

/-- A standby timer whose time has passed expires at once (R173). -/
def checkStandby (s : State) : State :=
  match s.ctl.standbyTimer with
  | some t =>
    if s.standbyRuns && decide (t + s.ctl.timeout * 60000 ≤ s.ms) then s.enterStandby else s
  | none => s

/-- STANDBY_CONFIG (R173). -/
def standbyConfig (s : State) (a : StandbyArgs) : Answer :=
  match yesNo a.commit, yesNo a.insertion, yesNo a.reprint with
  | some c, some i, some r =>
    if 120 < a.timeout.toNat then refuse s .eRange
    else
      done s { s with
        ctl.timeout := a.timeout.toNat
        ctl.wakeCommit := c
        ctl.wakeInsertion := i
        ctl.wakeReprint := r }.checkStandby []
  | _, _, _ => refuse s .eRange

end State

/-! ### The meanings -/

/-- LINE_RUN (R166). -/
def execLineRun (h : Hdr) (s : State) : Out := serve s h 19 linePort s.lineRun

/-- LINE_PAUSE (R166). -/
def execLinePause (h : Hdr) (s : State) : Out := serve s h 20 linePort s.linePause

/-- LINE_RESET (R171, R172). -/
def execLineReset (h : Hdr) (s : State) : Out := serve s h 21 linePort s.lineReset

/-- LINE_WAKE (R174). -/
def execLineWake (h : Hdr) (s : State) : Out := serve s h 22 linePort s.lineWake

/-- FAULT_CLEAR (R169). -/
def execFaultClear (h : Hdr) (causes : Byte) (s : State) : Out :=
  serve s h 23 linePort (s.faultClear causes)

/-- PROCESSOR_CONFIG (R144). -/
def execProcessorConfig (h : Hdr) (a : ProcessorArgs) (s : State) : Out :=
  serve s h 38 linePort (s.processorConfig a)

/-- ROUTE_SET (R154). -/
def execRouteSet (h : Hdr) (w1 w2 : WindowArg) (s : State) : Out :=
  serve s h 39 linePort (s.routeSet w1 w2)

/-- STANDBY_CONFIG (R173). -/
def execStandbyConfig (h : Hdr) (a : StandbyArgs) (s : State) : Out :=
  serve s h 40 linePort (s.standbyConfig a)

/-- BIN_EMPTIED (R162). -/
def execBinEmptied (h : Hdr) (bin : Byte) (s : State) : Out := serve s h 41 linePort (s.binEmptied bin)

/-- ITEM_SKIP (R11). -/
def execItemSkip (h : Hdr) (number : Half) (item : Byte) (s : State) : Out :=
  serve s h 42 linePort (s.itemSkip number item)

/-- JAM_CLEAR (R151). -/
def execJamClear (h : Hdr) (n : Half) (s : State) : Out := serve s h 43 linePort (s.jamClear n)

end Sys2Proof.Machine
end

