-- ==== Sys2Proof/Machine/HeadPort.lean ====
section
/-! DEFINITION. The requests of the line port to the head calibration unit, the exposure engine, the
transport and the cutter (chapters 4 to 7). -/

namespace Sys2Proof.Machine

/-- The corrections a CORRECTION_SET gives, when in range (R85). -/
def corrOf (a : CorrArg) : Option Corr :=
  match signedWithin a.balance 60 with
  | some b => if a.offset.toNat ≤ 63 then some ⟨b, a.offset.toNat⟩ else none
  | none => none

/-- The three channels of a CORRECTION_SET. -/
def rgbCorrOf (v : Rgb CorrArg) : Option (Rgb Corr) :=
  match corrOf v.r, corrOf v.g, corrOf v.b with
  | some r, some g, some b => some ⟨r, g, b⟩
  | _, _, _ => none

/-- Each number is no less than the one before it (R81). -/
def nonDecreasing : List Nat → Bool
  | [] => true
  | x :: xs => (xs.head?.all fun y => decide (x ≤ y)) && nonDecreasing xs

/-- The detect mode and removal reset enable a MAGAZINE_CONFIG gives a slot: a slot switched to SOFTWARE
takes its present presence (R120). -/
def Mag.configure (m : Mag) (software reset : Bool) : Mag :=
  { m with
    softPresent := if software && !m.software then m.present else m.softPresent
    software := software
    resetEnable := reset }

namespace State

/-- HEAD_CALIBRATE carried out: merged with the pending calibration; a preempting request aborts the
frame being written (R94, R95). `settle` starts the calibration when nothing holds it back (R96). -/
def askCalibration (s : State) (k : CalKind) (preempt : Bool) : State :=
  let s := s.mergePending k
  if preempt && s.writing then s.abortFrame.wasteLast else s

/-- HEAD_CALIBRATE (R94, R95). -/
def headCalibrate (s : State) (kind preempt : Byte) : Answer :=
  match calKindOf kind, yesNo preempt with
  | some k, some pre =>
    if s.cal.pending.isSome then accepted s (s.askCalibration k pre)
    else match s.ctl.line with
      | .calibrating => refuse s .eBusy
      | .standby | .waking => refuse s .eState
      | .fault =>
        if s.transport.probe.isSome then refuse s .eBusy else accepted s (s.askCalibration k pre)
      | _ => accepted s (s.askCalibration k pre)
  | _, _ => refuse s .eRange

/-- CAL_REF_SET (R102). -/
def calRefSet (s : State) (ref : Rgb Half) (shortEvery : Half) : Answer :=
  if !(within ref.r.toNat 256 4000 && within ref.g.toNat 256 4000 && within ref.b.toNat 256 4000 &&
      within shortEvery.toNat 0 5000) then refuse s .eRange
  else
    done s { s with
      cal.ref := ⟨ref.r.toNat, ref.g.toNat, ref.b.toNat⟩
      sched.shortEvery := shortEvery.toNat } []

/-- PATTERN_SET (R103): during a flush or a changeover its effect on the scheduler waits for the end of it. -/
def patternSet (s : State) (mode : Byte) : Answer :=
  match yesNo mode with
  | none => refuse s .eRange
  | some on =>
    if s.ctl.line == .exposing || s.writing then refuse s .eState
    else if on == s.cal.pattern then done s s []
    else
      let t := if on then { s with cal.pattern := true }
        else { s with cal.pattern := false, cal.test := none }
      done s (if s.atWork then t.defer else if on then t else t.dueScan.dueAttempt) []

/-- TEST_PRINT (R104). -/
def testPrint (s : State) (slot count : Byte) : Answer :=
  match magSlotOf slot with
  | none => refuse s .eRange
  | some m =>
    if !within count.toNat 1 20 then refuse s .eRange
    else if !s.cal.pattern then refuse s .eState
    else if s.cal.test.isSome then refuse s .eBusy
    else done s { s with cal.test := some ⟨m, count.toNat⟩ }.dueAttempt []

/-- The corrections reach the live set now, when the line is not EXPOSING and the hold is off (R86). -/
def copyNow (s : State) : State := if s.ctl.line == .exposing then s else s.copyCorrections

/-- CORRECTION_SET (R85). -/
def correctionSet (s : State) (surface : Byte) (corr : Rgb CorrArg) : Answer :=
  match surfaceOf surface, rgbCorrOf corr with
  | some f, some c =>
    done s { s with
      engine.staged := surfaceMod (fun _ => c) s.engine.staged f
      engine.waiting := true }.copyNow []
  | _, _ => refuse s .eRange

/-- CORRECTION_HOLD (R87). -/
def correctionHold (s : State) (mode : Byte) : Answer :=
  match yesNo mode with
  | none => refuse s .eRange
  | some on => done s { s with engine.hold := on }.copyNow []

/-- The tables may be loaded (R80, R81). -/
def tablesOpen (s : State) : Bool :=
  !s.writing &&
    match s.ctl.line with
    | .exposing | .flushing | .changeover => false
    | _ => true

/-- CURVE_LOAD (R80). A list of another length than the frame's is refused as malformed (log 31). -/
def curveLoad (s : State) (surface channel : Byte) (levels : List Byte) : Answer :=
  let ls := levels.map BitVec.toNat
  if ls.length ≠ 256 then refuse s .eFormat
  else match surfaceOf surface, channelOf channel with
    | some f, some c =>
      if !ls.all (fun l => decide (l ≤ 127)) then refuse s .eRange
      else if !s.tablesOpen then refuse s .eState
      else
        done s { s with
          engine.curves := surfaceMod (fun v => rgbMod (fun _ => ls) v c) s.engine.curves f } []
    | _, _ => refuse s .eRange

/-- DRIVE_LOAD (R81). A list of another length than the frame's is refused as malformed (log 31). -/
def driveLoad (s : State) (channel : Byte) (codes : List Half) : Answer :=
  let ls := codes.map BitVec.toNat
  if ls.length ≠ 128 then refuse s .eFormat
  else match channelOf channel with
    | some c =>
      if !ls.all (fun l => decide (l ≤ 1023)) then refuse s .eRange
      else if !s.tablesOpen then refuse s .eState
      else if !nonDecreasing ls then refuse s .eTable
      else done s { s with engine.drive := rgbMod (fun _ => ls) s.engine.drive c } []
    | none => refuse s .eRange

/-- BACKPRINT_CONFIG (R88). -/
def backprintConfig (s : State) (enable : Byte) (start stop : Half) : Answer :=
  match yesNo enable with
  | none => refuse s .eRange
  | some e =>
    if 12199 < start.toNat ∨ 12199 < stop.toNat ∨ stop.toNat ≤ start.toNat then refuse s .eRange
    else
      done s { s with
        engine.bpEnable := e
        engine.bpStart := start.toNat
        engine.bpStop := stop.toNat } []

/-- MAGAZINE_CONFIG (R120): the settings are replaced, then a switch of a detect mode that changes a
slot's presence is an insertion or a removal. -/
def magazineConfig (s : State) (a : MagConfigArgs) : Answer :=
  match yesNo a.mode1, yesNo a.reset1, yesNo a.mode2, yesNo a.reset2 with
  | some m1, some r1, some m2, some r2 =>
    if !(within a.lowMm.toNat 500 20000 && within a.endLead.toNat 50 500) then refuse s .eRange
    else
      let p1 := (s.mag .m1).present
      let p2 := (s.mag .m2).present
      let t := { s with
        transport.m1 := s.transport.m1.configure m1 r1
        transport.m2 := s.transport.m2.configure m2 r2
        transport.lowMm := a.lowMm.toNat
        transport.endLead := a.endLead.toNat }
      done s ((t.presenceChange .m1 p1).presenceChange .m2 p2) []
  | _, _, _, _ => refuse s .eRange

/-- MAGAZINE_PRESENT (R117). -/
def magazinePresent (s : State) (slot presence : Byte) : Answer :=
  match magSlotOf slot, yesNo presence with
  | some m, some p =>
    if !(s.mag m).software then refuse s .eState
    else
      done s ((s.modMag (fun g => { g with softPresent := p }) m).presenceChange m (s.mag m).present) []
  | _, _ => refuse s .eRange

/-- ROLL_SET (R121): an event of R58. -/
def rollSet (s : State) (slot : Byte) (length : Wide) : Answer :=
  match magSlotOf slot, remainingOf length with
  | some m, some r =>
    if s.magState m == .absent || s.magState m == .unusable then refuse s .eState
    else if s.transport.threaded == some m && (s.mag m).endSeen then refuse s .eState
    else
      done s (s.modMag (fun g =>
        { g with remaining := r, endSeen := false, carry := 0 }) m).releasePaper.dueAttempt []
  | _, _ => refuse s .eRange

/-- The line is STOPPED, STANDBY or FAULT (R108, R133). -/
def pathOpen (s : State) : Bool :=
  match s.ctl.line with
  | .stopped | .standby | .fault => true
  | _ => false

/-- A flush timer whose time has passed expires at once (R66, R67). -/
def checkFlush (s : State) : State :=
  match s.sched.flushTimer with
  | some t => if s.flushRuns && decide (t + s.sched.flushDelay * 1000 ≤ s.ms) then s.startFlush else s
  | none => s

/-- PATH_CONFIG (R66, R108). -/
def pathConfig (s : State) (countsPerRev : Half) (speedNom flushDelay : Byte) : Answer :=
  if !(within countsPerRev.toNat 4000 40000 && within speedNom.toNat 20 150 &&
      within flushDelay.toNat 1 120) then refuse s .eRange
  else if !s.pathOpen then refuse s .eState
  else
    done s { s with
      transport.countsPerRev := countsPerRev.toNat
      transport.speedNom := speedNom.toNat
      sched.flushDelay := flushDelay.toNat }.checkFlush []

/-- CUTTER_CONFIG (R133). -/
def cutterConfig (s : State) (a : CutterArgs) : Answer :=
  if !(within a.markPath.toNat 4000 20000 && within a.blank.toNat 500 3000 &&
      within a.markTol.toNat 20 400 && within a.cutOffset.toNat 0 2000 &&
      within a.cutDwell.toNat 5 200) then refuse s .eRange
  else if !s.pathOpen then refuse s .eState
  else
    done s { s with
      cutter.markPath := a.markPath.toNat
      cutter.blank := a.blank.toNat
      cutter.markTol := a.markTol.toNat
      cutter.cutOffset := a.cutOffset.toNat
      cutter.cutDwell := a.cutDwell.toNat } []

end State

/-! ### The meanings -/

/-- HEAD_CALIBRATE (R94). -/
def execHeadCalibrate (h : Hdr) (kind preempt : Byte) (s : State) : Out :=
  serve s h 24 linePort (s.headCalibrate kind preempt)

/-- CAL_REF_SET (R102). -/
def execCalRefSet (h : Hdr) (ref : Rgb Half) (shortEvery : Half) (s : State) : Out :=
  serve s h 25 linePort (s.calRefSet ref shortEvery)

/-- PATTERN_SET (R103). -/
def execPatternSet (h : Hdr) (mode : Byte) (s : State) : Out :=
  serve s h 26 linePort (s.patternSet mode)

/-- TEST_PRINT (R104). -/
def execTestPrint (h : Hdr) (slot count : Byte) (s : State) : Out :=
  serve s h 27 linePort (s.testPrint slot count)

/-- CORRECTION_SET (R85). -/
def execCorrectionSet (h : Hdr) (surface : Byte) (corr : Rgb CorrArg) (s : State) : Out :=
  serve s h 28 linePort (s.correctionSet surface corr)

/-- CORRECTION_HOLD (R87). -/
def execCorrectionHold (h : Hdr) (mode : Byte) (s : State) : Out :=
  serve s h 29 linePort (s.correctionHold mode)

/-- CURVE_LOAD (R80). -/
def execCurveLoad (h : Hdr) (surface channel : Byte) (levels : List Byte) (s : State) : Out :=
  serve s h 30 linePort (s.curveLoad surface channel levels)

/-- DRIVE_LOAD (R81). -/
def execDriveLoad (h : Hdr) (channel : Byte) (codes : List Half) (s : State) : Out :=
  serve s h 31 linePort (s.driveLoad channel codes)

/-- BACKPRINT_CONFIG (R88). -/
def execBackprintConfig (h : Hdr) (enable : Byte) (start stop : Half) (s : State) : Out :=
  serve s h 32 linePort (s.backprintConfig enable start stop)

/-- MAGAZINE_CONFIG (R120). -/
def execMagazineConfig (h : Hdr) (a : MagConfigArgs) (s : State) : Out :=
  serve s h 33 linePort (s.magazineConfig a)

/-- MAGAZINE_PRESENT (R117). -/
def execMagazinePresent (h : Hdr) (slot presence : Byte) (s : State) : Out :=
  serve s h 34 linePort (s.magazinePresent slot presence)

/-- ROLL_SET (R121). -/
def execRollSet (h : Hdr) (slot : Byte) (length : Wide) (s : State) : Out :=
  serve s h 35 linePort (s.rollSet slot length)

/-- PATH_CONFIG (R66, R108). -/
def execPathConfig (h : Hdr) (countsPerRev : Half) (speedNom flushDelay : Byte) (s : State) : Out :=
  serve s h 36 linePort (s.pathConfig countsPerRev speedNom flushDelay)

/-- CUTTER_CONFIG (R133). -/
def execCutterConfig (h : Hdr) (a : CutterArgs) (s : State) : Out :=
  serve s h 37 linePort (s.cutterConfig a)

end Sys2Proof.Machine
end

