-- ==== Sys2Proof/Machine/Outputs.lean ====
section
/-! DEFINITION. The machine-side outputs (00 "External signal groups"), each as a function of the state. -/

namespace Sys2Proof.Machine

namespace State

/-- Head power (R164): on in every line state except STANDBY. -/
def headPower (s : State) : Bool := s.ctl.line != .standby

/-- The drive code of element x in a channel (R70, R72); `none` while a calibration drives the head for
measurement, whose codes the manual does not state (log 14), and beyond the head. -/
def driveCode (s : State) (ch : Channel) (x : Nat) : Option Nat :=
  match s.engine.presented with
  | .zero => if x < Config.headElements then some 0 else none
  | .measuring => none
  | .codes line => (rgbGet line ch)[x]?

/-- The bits that data out presented during a port's latest transfer, most significant of each byte first: 0
throughout a request frame (R176), those of a reply from its second byte on (R178, log 26). -/
def dataOut (s : State) (p : Port) : List Bool := presentBits (s.port p).out

/-- Motor run (R110). The direction output is forward whenever it runs (R109). -/
def motorRun (s : State) : Bool := s.transport.motor

/-- The slot feed of a slot (R125): on for the incoming slot of a changeover in progress. -/
def slotFeed (s : State) (m : MagSlot) : Bool := (s.transport.changeover.map (·.incoming)) == some m

/-- The blade drive (R135, R136): on exactly while the blade is DOWN. -/
def bladeDrive (s : State) : Bool :=
  match s.cutter.blade with
  | .down _ _ => true
  | _ => false

/-- The replenishment pump (R146): on exactly in PULSE. -/
def pumpOutput (s : State) : Bool :=
  match s.monitor.pump with
  | .pulse _ _ => true
  | _ => false

/-- The processor stop (R150). -/
def processorStop (s : State) : Bool := s.monitor.stop.isSome

/-- Bin select (R163). -/
def binSelect (s : State) : Nat := s.sorter.select

/-- The bin gate (R163). -/
def binGate (s : State) : Bool := s.sorter.gate.isSome

/-- The back-print strobe with the order number and frame sequence outputs; both are 0 while the strobe is
removed (R89). -/
def backPrint (s : State) : Bool × Nat × Nat :=
  match s.engine.strobe with
  | some b => (true, b.number, b.seq)
  | none => (false, 0, 0)

end State

end Sys2Proof.Machine
end

