-- ==== Sys2Proof/Machine/EveryPort.lean ====
section
/-! DEFINITION. The requests of every port: the status records of chapter 12, PRICE_READ, and the flag
requests; and the two transfers that are no request of a block (R177, R178). -/

namespace Sys2Proof.Machine

/-! ### Order status record (12.3) -/

/-- A lock entry with its Cp (12.3). -/
def lockEntryBytes (e : LockEntry) (cp : Nat) : List Byte :=
  [byte e.product, byte (widthCode e.geom.across), byte (productSurfaceCode e.geom.surface)] ++
    le16 e.geom.along ++ le16 e.np ++ le16 e.up ++ le16 cp

/-- The lock entries, each with the Cp of the last settlement, 0 when settled is absent. -/
def lockEntriesBytes : List LockEntry → List Nat → List Byte
  | [], _ => []
  | e :: es, cs => lockEntryBytes e (cs.headD 0) ++ lockEntriesBytes es (cs.drop 1)

/-- The counters of an item status entry. -/
def countsBytes (n : Counts) : List Byte := [byte n.d, byte n.w, byte n.p, byte n.s, byte n.spoil]

/-- An item status entry (12.3). -/
def itemBytes (x : Item) : List Byte :=
  le16 x.slot ++ [byte x.product, byte x.n.q, byte x.n.c,
    byte (bits [x.mirror.across, x.mirror.along, x.rotate]),
    signedByte x.trims.r, signedByte x.trims.g, signedByte x.trims.b] ++ countsBytes x.n

/-- The item status entry of the index pseudo-item; its product is 255 when no lock is present. -/
def indexBytes (x : IndexItem) : List Byte :=
  le16 65535 ++ [byte (x.product.getD 255), byte x.n.q, byte x.n.c, 0, 0, 0, 0] ++ countsBytes x.n

/-- The globals of a lock as the order status record lays them out. -/
def lockGlobalsBytes (g : Globals) : List Byte :=
  le16 g.express ++ le16 g.promoMax ++ le16 g.indexPrice ++ [byte g.indexProduct, byte g.cashStep] ++
    le16 g.minCharge ++ le16 g.tax

/-- The index geometry of a lock; 0 when absent. -/
def indexGeomBytes : Option Geometry → List Byte
  | some g => [byte (widthCode g.across), byte (productSurfaceCode g.surface)] ++ le16 g.along
  | none => [0, 0, 0, 0]

/-- No money values. -/
def Breakdown.zero : Breakdown := ⟨0, 0, 0, 0, 0, 0, 0⟩

/-- No globals: every field 0. -/
def Globals.zero : Globals := ⟨0, 0, 0, 0, 0, 0, 0⟩

/-- Bin list in four bytes; of a longer list the first four (log 41). -/
def binListBytes (bs : List Nat) : List Byte := ((bs ++ [0, 0, 0, 0]).take 4).map byte

/-- The order status record (12.3). The bin count is the list's own length, be it above four (log 41). -/
def orderRecord (o : Order) : List Byte :=
  let entries := (o.lock.map (·.entries)).getD []
  let attributes := bits [o.indexRequested, o.started, o.inspect, o.lock.isSome, o.settled.isSome,
    o.paid.isSome, o.settled.any (·.indexCharged)]
  le16 o.number ++ [byte (orderStateCode o.state), byte (originCode o.origin),
    byte (serviceCode o.service), byte attributes] ++ le16 o.promo ++ le32 (orZero o.sequence) ++
    [byte (holdsCode o.holds), byte o.items.length, byte entries.length, byte o.bins.length] ++
    binListBytes o.bins ++ le16 (orZero (o.lock.map (·.generation))) ++
    lockGlobalsBytes ((o.lock.map (·.globals)).getD Globals.zero) ++
    indexGeomBytes (o.lock.bind (·.indexGeom)) ++
    State.breakdownBytes ((o.lock.map (·.quote)).getD Breakdown.zero) ++
    State.breakdownBytes ((o.settled.map (·.values)).getD Breakdown.zero) ++ le32 (orZero o.paid) ++
    lockEntriesBytes entries ((o.settled.map (·.charged)).getD []) ++
    o.items.flatMap itemBytes ++ (o.index.map indexBytes).getD []

/-! ### Price entries (12.7, 12.8) -/

/-- A product as the parameters of PRICE_STAGE from enabled on, tiers beyond the count as 0. -/
def productBytes (p : Product) : List Byte :=
  let tier (k : Nat) : List Byte := match p.tiers[k]? with
    | some t => le16 t.qty ++ le16 t.price
    | none => [0, 0, 0, 0]
  [flag p.enabled, byte (widthCode p.geom.across)] ++ le16 p.geom.along ++
    [byte (productSurfaceCode p.geom.surface)] ++ le16 p.base ++ [byte p.tiers.length] ++
    tier 0 ++ tier 1 ++ tier 2

/-- The globals as the parameters of PRICE_STAGE_GLOBALS. -/
def globalsBytes (g : Globals) : List Byte :=
  le16 g.express ++ le16 g.promoMax ++ le16 g.indexPrice ++ [byte g.indexProduct, byte g.cashStep] ++
    le16 g.minCharge ++ le16 g.tax

/-! ### Bin and magazine status records (12.9) -/

/-- The entry of bin b. -/
def binBytes (b : Nat) (x : Bin) : List Byte :=
  [byte (bankCode (bankOfBin b)), byte (binStateCode x.state)] ++ le16 (orZero x.owner) ++ [byte x.count]

/-- A routing window. -/
def windowBytes (w : Window) : List Byte := le16 w.base ++ le16 w.limit ++ [byte (bankCode w.bank)]

/-- The bin status record. -/
def binRecord (t : Sorter) : List Byte :=
  ((List.range 24).flatMap fun k => binBytes (k + 1) (t.bin (k + 1))) ++ le16 t.reject ++
    [flag (decide (200 ≤ t.reject))] ++ windowBytes t.window1 ++ windowBytes t.window2

namespace State

/-- The entry of a magazine slot (12.9). -/
def magBytes (s : State) (m : MagSlot) : List Byte :=
  let g := s.mag m
  [byte (magStateCode (s.magState m)), flag (s.transport.threaded == some m), flag g.software,
    flag g.resetEnable, flag g.ctx.isSome, byte (widthCode (orZero (g.ctx.map (·.width)))),
    byte (orZero (g.ctx.map fun c => surfaceCode c.surface))] ++
    le16 (orZero (g.ctx.map (·.serial))) ++ le32 (remainingCode g.remaining) ++ [flag g.endSeen] ++
    halfBytes g.rawStrip

/-- The magazine status record (12.9). -/
def magazineRecord (s : State) : List Byte :=
  s.magBytes .m1 ++ s.magBytes .m2 ++ le16 s.transport.lowMm ++ le16 s.transport.endLead

/-! ### Line status record (12.4) -/

/-- Bytes 0..14: the line controller and the current order. -/
def lineCtlBytes (s : State) : List Byte :=
  let c := s.ctl
  [byte (lineStateCode c.line), flag c.runEnable, flag c.pausePending, byte (faultsCode c.faults),
    flag s.headPower, byte c.timeout,
    byte (bits [c.wakeCommit, c.wakeInsertion, c.wakeReprint]), flag c.standbyTimer.isSome] ++
    le32 (orZero c.standbyTimer) ++ [byte (probeCode c.lastProbe)] ++
    le16 (orZero (s.current.map fun i => (s.orderAt i).number))

/-- Bytes 15..29: the scheduler, the item pool and the image store. -/
def schedulerBytes (s : State) : List Byte :=
  let c := s.sched
  [byte (waitCauseCode c.waitCause)] ++ le16 c.framesSinceCal ++ le16 c.shortEvery ++
    [flag c.flushTimer.isSome, flag c.queueBlocked] ++ le16 (Config.itemPool - s.itemsUsed) ++
    le32 s.images.freePages ++ le16 ((s.images.load.map (·.slot)).getD 65535)

/-- Bytes 31..34 and 36..37: the frame being written; 0 for a closing gap (log 24). -/
def frameBytes (s : State) : List Byte × List Byte :=
  match s.frame? with
  | some c =>
    ([byte (frameKindCode c.kind)] ++ le16 (orZero (c.target.map (·.number))) ++
      [byte (orZero (c.target.map (·.item)))], le16 c.next)
  | none => ([0, 0, 0, 0], [0, 0])

/-- Bytes 30..38: the exposure engine. -/
def engineBytes (s : State) : List Byte :=
  [byte (engineCode s.engine.work)] ++ s.frameBytes.1 ++ [flag s.engine.hold] ++ s.frameBytes.2 ++
    [flag s.engine.waiting]

/-- Dead markers of a channel within elements 0..6,099 (R93, R99). -/
def deadCount (dead : List Bool) : Nat := (dead.take Config.countedElements).count true

/-- Bytes 39..57: the head calibration unit. -/
def calBytes (s : State) : List Byte :=
  let c := s.cal
  [flag c.calibrated, byte (calKindCode c.pending), byte (calKindCode (c.run.map (·.kind))),
    byte c.shortPtr, flag c.pattern] ++ le16 (deadCount c.dead.r) ++ le16 (deadCount c.dead.g) ++
    le16 (deadCount c.dead.b) ++ le16 c.ref.r ++ le16 c.ref.g ++ le16 c.ref.b ++
    [byte (magSlotCode (c.test.map (·.slot))), byte (orZero (c.test.map (·.remaining)))]

/-- Bytes 58..72: the transport. A speed above 2^32 − 1 is presented by its low 4 bytes (log 39). -/
def transportBytes (s : State) : List Byte :=
  let t := s.transport
  le48 t.position ++ [flag t.motor, flag t.encoder, flag t.deadReckoning.isSome, byte t.mismatches] ++
    le32 t.speedInUse ++ [flag t.speed.isSome]

/-- Bytes 73..100: the cutter. A pending cut above 2^48 − 1 is presented by its low 6 bytes (log 39). -/
def cutterBytes (s : State) : List Byte :=
  let c := s.cutter
  let p := c.openPiece
  [byte c.web.length, byte (orZero (p.map fun x => recordKindCode x.kind))] ++
    le16 (orZero ((p.bind (·.order)).map (·.number))) ++
    [byte (orZero ((p.bind (·.order)).map (·.item))),
      byte (bits [c.pendingCut.isSome, c.lastCut.isSome, c.lastMark.isSome])] ++
    le48 (orZero c.pendingCut) ++ le48 (orZero c.lastCut) ++
    le48 (orZero (c.lastMark.map (·.capture))) ++ signed16 ((c.lastMark.map (·.deviation)).getD 0) ++
    [byte (bladeCode c.blade), byte (diverterCode c.diverter)]

/-- The watchdog's code and expiry time (R149). -/
def watchdogBytes (w : Watchdog) : List Byte :=
  match w with
  | .disarmed => [0] ++ le32 0
  | .armed t => [1] ++ le32 t
  | .suspended => [2] ++ le32 0

/-- Bytes 101..128: the processor monitor. -/
def monitorBytes (s : State) : List Byte :=
  let m := s.monitor
  let x := m.sheets.head?
  le32 m.window ++ le16 m.budget ++ le16 m.sheets.length ++
    [byte (orZero (x.map fun y => frameKindCode y.kind))] ++
    le16 (orZero ((x.bind (·.order)).map (·.number))) ++ le32 (orZero (x.map (·.due))) ++
    watchdogBytes m.watchdog ++ [flag m.stop.isSome] ++ le32 (orZero m.stop) ++ le16 m.accumulator ++
    [byte m.pulses]

/-- The line status record (12.4). -/
def lineRecord (s : State) : List Byte :=
  s.lineCtlBytes ++ s.schedulerBytes ++ s.engineBytes ++ s.calBytes ++ s.transportBytes ++
    s.cutterBytes ++ s.monitorBytes

/-! ### The requests -/

/-- ORDER_STATUS (R181). -/
def orderStatus (s : State) (number : Half) : Answer :=
  match s.findLive number.toNat with
  | none => refuse s .eNoOrder
  | some i => readOut s (orderRecord (s.orderAt i))

/-- The numbers ORDER_LIST gives (R181): queue order for QUEUED, record order otherwise. -/
def listed (s : State) (st : OrderState) : List Nat :=
  if st = .queued then s.book.queue.map fun i => (s.orderAt i).number
  else (s.book.records.filter fun o => o.state == st).map (·.number)

/-- ORDER_LIST (R181). -/
def orderList (s : State) (state : Byte) : Answer :=
  match orderStateOf state with
  | none => refuse s .eRange
  | some st => readOut s ([byte (s.listed st).length] ++ (s.listed st).flatMap le16)

/-- PRICE_READ (R37). -/
def priceRead (s : State) (copy entry : Byte) : Answer :=
  let table := match copy.toNat with
    | 0 => some s.prices.active
    | 1 => some s.prices.staged
    | _ => none
  match table with
  | none => refuse s .eRange
  | some t =>
    if entry.toNat ≤ 15 then
      readOut s (le16 s.prices.generation ++ productBytes (t.product entry.toNat))
    else if entry.toNat = 16 then readOut s (le16 s.prices.generation ++ globalsBytes t.globals)
    else refuse s .eRange

/-- FLAGS_READ (R183). -/
def flagsRead (s : State) (p : Port) : Answer :=
  readOut s (halfBytes (s.port p).flags ++ halfBytes (s.port p).enables ++ halfBytes s.conditionWord)

/-- A mask or enable word sets a bit that names no flag (R183). -/
def namesNoFlag (m : Half) : Bool := m &&& flagBits != m

/-- FLAGS_CLEAR (R182, R183): the named level flags whose conditions hold are set again. -/
def flagsClear (s : State) (p : Port) (mask : Half) : Answer :=
  if namesNoFlag mask then refuse s .eRange
  else
    let w := ((s.port p).flags &&& ~~~mask) ||| (s.conditionWord &&& mask)
    ⟨s.modPort (fun x => { x with flags := w }) p, .ok, halfBytes w⟩

/-- FLAGS_ENABLE (R183). -/
def flagsEnable (s : State) (p : Port) (word : Half) : Answer :=
  if namesNoFlag word then refuse s .eRange
  else ⟨s.modPort (fun x => { x with enables := word }) p, .ok, []⟩

/-! ### Transfers -/

/-- The bytes of a reply (12.1). -/
def replyBytes (r : Reply) : List Byte :=
  [byte (statusCode r.status), r.tag, r.code] ++ le16 r.payload.length ++ r.payload

/-- What an empty holder presents (R178). -/
def emptyReply : List Byte := [byte statusNone, 0, byte replyReadCode, 0, 0]

/-- `n` bytes of a reply; bytes beyond its end are 0 (R178). -/
def clocked (bytes : List Byte) (n : Nat) : List Byte := bytes.take n ++ List.replicate (n - bytes.length) 0

/-- A reply transfer (R178): the holder becomes empty once every byte has been clocked out. -/
def PortState.transfer (p : PortState) (further : Nat) : PortState :=
  match p.holder with
  | none => { p with out := clocked emptyReply further }
  | some r =>
    { p with
      out := clocked (replyBytes r) further
      holder := if (replyBytes r).length ≤ further then none else some r }

/-- REPLY_READ (R178). -/
def replyRead (s : State) (p : Port) (further : Nat) : State :=
  s.modPort (fun x => PortState.transfer x further) p

/-- MALFORMED_REQUEST_FRAME (R176, R177): E_FORMAT with tag and code as received, 0 for one not received
whole, data out 0 throughout. A transfer without a whole byte is ignored; a first byte of REPLY_READ makes it
a reply transfer; a frame that R177 accepts is no malformed frame and does nothing here (log 7). -/
def malformed (s : State) (p : Port) (bytes : List Byte) (cut : Bool) : State :=
  match bytes with
  | [] => s
  | code :: rest =>
    if code.toNat = replyReadCode then s.replyRead p rest.length
    else if frameMalformed bytes cut then
      s.modPort (fun x => { x with
        holder := some ⟨.eFormat, rest.headD 0, code, []⟩
        out := List.replicate bytes.length 0 }) p
    else s

end State

/-! ### The meanings -/

/-- ORDER_STATUS (R181). -/
def execOrderStatus (h : Hdr) (number : Half) (s : State) : Out :=
  serve s h 44 everyPort (s.orderStatus number)

/-- ORDER_LIST (R181). -/
def execOrderList (h : Hdr) (state : Byte) (s : State) : Out :=
  serve s h 45 everyPort (s.orderList state)

/-- BIN_STATUS (R152). -/
def execBinStatus (h : Hdr) (s : State) : Out :=
  serve s h 46 everyPort (readOut s (binRecord s.sorter))

/-- LINE_STATUS (R181). -/
def execLineStatus (h : Hdr) (s : State) : Out := serve s h 47 everyPort (readOut s s.lineRecord)

/-- MAGAZINE_STATUS (R116). -/
def execMagazineStatus (h : Hdr) (s : State) : Out :=
  serve s h 48 everyPort (readOut s s.magazineRecord)

/-- PRICE_READ (R37). -/
def execPriceRead (h : Hdr) (copy entry : Byte) (s : State) : Out :=
  serve s h 49 everyPort (s.priceRead copy entry)

/-- FLAGS_READ (R183). -/
def execFlagsRead (h : Hdr) (s : State) : Out := serve s h 50 everyPort (s.flagsRead h.port)

/-- FLAGS_CLEAR (R183). -/
def execFlagsClear (h : Hdr) (mask : Half) (s : State) : Out :=
  serve s h 51 everyPort (s.flagsClear h.port mask)

/-- FLAGS_ENABLE (R183). -/
def execFlagsEnable (h : Hdr) (word : Half) (s : State) : Out :=
  serve s h 52 everyPort (s.flagsEnable h.port word)

/-- REPLY_READ (R178). -/
def execReplyRead (p : Port) (further : Nat) (s : State) : Out := .next (s.replyRead p further)

/-- MALFORMED_REQUEST_FRAME (R177). -/
def execMalformedRequestFrame (p : Port) (bytes : List Byte) (cut : Bool) (s : State) : Out :=
  .next (s.malformed p bytes cut)

end Sys2Proof.Machine
end

