-- ==== Sys2Proof/Machine/LinkEvents.lean ====
section
/-! DEFINITION. Power-on and the image link (R29, R30, R164). -/

namespace Sys2Proof.Machine

namespace State

/-- A word is taken into the load (R29): its low byte, then its high byte, which is padding at an odd
end. -/
def takeWord (s : State) (l : Load) (x : ImageSlot) (size : ImageSize) (word : Half) : State :=
  let s := s.storeByte x.pages (2 * l.taken) (word.extractLsb' 0 8)
  let s :=
    if 2 * l.taken + 1 < 3 * size.width * size.height then
      s.storeByte x.pages (2 * l.taken + 1) (word.extractLsb' 8 8)
    else s
  { s with images.load := some { l with taken := l.taken + 1 } }

/-- A word strobe with the given line-valid level (R29, R30). -/
def wordStrobe (s : State) (word : Half) (lineValid : Bool) : State :=
  match s.images.load with
  | none => s
  | some l =>
    if s.images.frameValid && lineValid && l.started then
      let x := s.images.slot l.slot
      match x.size with
      | none => s
      | some z => if wordsFor z ≤ l.taken then s.loadFault l.slot else s.takeWord l x z word
    else s

/-- The rising edge of frame-valid (R29). -/
def frameRise (s : State) : State :=
  if s.images.frameValid then s
  else
    { s with
      images.frameValid := true
      images.load := s.images.load.map fun l => { l with started := true } }

/-- The fall of frame-valid (R30). -/
def frameFall (s : State) : State :=
  let t := { s with images.frameValid := false }
  if !s.images.frameValid then t
  else match s.images.load with
    | none => t
    | some l =>
      if !l.started then t
      else match (s.images.slot l.slot).size with
        | none => t
        | some z => if wordsFor z ≤ l.taken then t.loadDone l.slot else t.loadFault l.slot

/-- A magazine slot's inputs as they stand at a power-on (log 4). -/
def powerOnMag (m : Mag) : Mag := Mag.powerOn m.detect m.strip m.endInput

/-- Power-on (R164): every block at its power-on values; what stands outside the part stays, the levels of
its inputs and the commands that wait (log 4). -/
def repower (s : State) : State :=
  State.powerOn s.pending s.freeCount s.images.frameValid (powerOnMag s.transport.m1)
    (powerOnMag s.transport.m2) s.cutter.markInput s.cutter.homeInput s.monitor.input

end State

/-- POWER_ON (R164). -/
def execPowerOn (s : State) : Out := .next s.repower

/-- FRAME_VALID_RISE (R29). -/
def execFrameValidRise (s : State) : Out := event s s.frameRise

/-- IMAGE_WORD_STROBE (R29, R30). -/
def execImageWordStrobe (word : Half) (lineValid : Bool) (s : State) : Out :=
  event s (s.wordStrobe word lineValid)

/-- FRAME_VALID_FALL (R30). -/
def execFrameValidFall (s : State) : Out := event s s.frameFall

end Sys2Proof.Machine
end

