-- ==== Sys2Proof/Machine/PaperEvents.lean ====
section
/-! DEFINITION. The events of the transport unit and the magazines (chapter 6). -/

namespace Sys2Proof.Machine

namespace State

/-- A quadrature transition as a count seen: it restarts the no-count time, and a reverse count breaks the
partnership of index pulses (R112, R113). -/
def countSeen (s : State) (forward : Bool) : State :=
  { s with
    transport.lastCount := s.ms
    transport.pulseUs := if forward then s.transport.pulseUs else none }

/-- A transition during a clear probe (R115): one count more, the position follows the encoder, and the
40th count within 200 ms of the start is the probe's success. -/
def probeCount (s : State) (p : Probe) (forward : Bool) : State :=
  let s := { s with transport.probe := some { p with counts := p.counts + 1 } }
  let s := s.moveTo (s.countedPosition forward)
  if 40 ≤ p.counts + 1 ∧ s.ms ≤ p.start + 200 then s.probePasses else s

/-- A quadrature transition (R109). -/
def transition (s : State) (forward : Bool) : State :=
  let s := s.countSeen forward
  match s.transport.probe with
  | some p => s.probeCount p forward
  | none =>
    if s.transport.deadReckoning.isSome then s else s.moveTo (s.countedPosition forward)

/-- 50 ms without a count (R112), while the motor runs and the ENCODER condition is absent. -/
def noCount (s : State) : State :=
  if s.transport.motor && !s.transport.encoder then
    (s.passTo (s.transport.lastCount + 50)).encoderArises
  else s

/-- Time passes, and the dead-reckoned position with it (R114); nothing where none is in force (log 12). -/
def reckon (s : State) (us : Nat) : State := if s.reckons then s.pass us else s

/-- 1 µs passes with no command waiting (log 1): under dead reckoning the position follows it and what that
brings about comes to rest. -/
def idle (s : State) : State := if s.reckons then settle s (s.pass 1) else s.elapse 1

/-- The clear probe's success (R115), while one runs and its 200 ms have not passed (log 22). -/
def probeSuccess (s : State) : State :=
  match s.transport.probe with
  | some p => if s.ms ≤ p.start + 200 then s.probePasses else s
  | none => s

/-- The clear probe's failure (R115): 200 ms have passed. -/
def probeFailure (s : State) : State :=
  match s.transport.probe with
  | some p => (s.passTo (p.start + 200)).probeFails
  | none => s

/-- The detect input of a slot takes a level; a change restarts the 20 ms (R117). -/
def detectInput (s : State) (m : MagSlot) (level : Bool) (strip : Half) : State :=
  s.modMag (fun g =>
    { g with
      strip := strip
      detect := level
      detectSince := if g.detect == level then g.detectSince else s.ms }) m

/-- The detect input has held its level for 20 ms (R117). A level condition that the passing of this time has
brought sets its flags before the removal can end it (R182). -/
def debounce (s : State) (m : MagSlot) : State :=
  let g := s.mag m
  if g.detect == g.debounced then s
  else
    let s := (s.passTo (g.detectSince + 20)).syncFlags
    (s.modMag (fun g => { g with debounced := g.detect }) m).presenceChange m g.present

/-- The paper end input of a slot changes; a change to the end on the threaded slot is taken while end
seen is no (R123). -/
def paperEnd (s : State) (m : MagSlot) (shows : Bool) : State :=
  let g := s.mag m
  let s := s.modMag (fun g => { g with endInput := shows }) m
  if shows && !g.endInput && s.transport.threaded == some m && !g.endSeen then s.takePaperEnd m else s

/-- The changeover in progress completes (R125): the outgoing slot is the one threaded until then. -/
def changeoverEnds (s : State) : State :=
  match s.transport.changeover with
  | none => s
  | some c =>
    let s := s.passTo (c.start + 8000)
    let t := { s with transport.changeover := none }.clearRequest.thread c.incoming
    (t.giveUp (s.transport.threaded.filter (· != c.incoming))).leaveWork

end State

/-- ENCODER_TRANSITION (R109). -/
def execEncoderTransition (forward : Bool) (s : State) : Out := event s (s.transition forward)

/-- ENCODER_INDEX_PULSE (R111). -/
def execEncoderIndexPulse (s : State) : Out := event s s.indexPulse

/-- ENCODER_NO_COUNT_TIMEOUT (R112). -/
def execEncoderNoCountTimeout (s : State) : Out := event s s.noCount

/-- DEAD_RECKONING_ADVANCE (R114). -/
def execDeadReckoningAdvance (us : Nat) (s : State) : Out := event s (s.reckon us)

/-- CLEAR_PROBE_SUCCESS (R115). -/
def execClearProbeSuccess (s : State) : Out := event s s.probeSuccess

/-- CLEAR_PROBE_FAILURE (R115). -/
def execClearProbeFailure (s : State) : Out := event s s.probeFailure

/-- DETECT_INPUT_CHANGE (R117). -/
def execDetectInputChange (m : MagSlot) (level : Bool) (strip : Half) (s : State) : Out :=
  event s (s.detectInput m level strip)

/-- DETECT_DEBOUNCED (R117). -/
def execDetectDebounced (m : MagSlot) (s : State) : Out := event s (s.debounce m)

/-- PAPER_END (R123). -/
def execPaperEnd (m : MagSlot) (shows : Bool) (s : State) : Out := event s (s.paperEnd m shows)

/-- CHANGEOVER_COMPLETE (R125). -/
def execChangeoverComplete (s : State) : Out := event s s.changeoverEnds

end Sys2Proof.Machine
end

