-- ==== Sys2Proof/Machine/HeadEvents.lean ====
section
/-! DEFINITION. The end of a calibration (chapter 5), the flush timer (R67), and the events of the cutter
(chapter 7). -/

namespace Sys2Proof.Machine

/-- A list with each entry changed, the function given its index. -/
def mapFrom {α β : Type} (f : Nat → α → β) (i : Nat) : List α → List β
  | [] => []
  | x :: xs => f i x :: mapFrom f (i + 1) xs

/-- The element is measured (R98): all by a LONG, one in eight by a SHORT. -/
def measured (k : CalKind) (ptr x : Nat) : Bool :=
  match k with
  | .long => true
  | .short => x % 8 == ptr

/-- The reading of an element in a channel. -/
def readingOf (m : Readings) (ch : Channel) (x : Nat) : Nat :=
  match m.others.find? fun r => r.element == x && r.channel == ch with
  | some r => r.value.toNat
  | none => m.common.toNat

/-- The new trim for a reading (R98). -/
def newTrim (ref m : Nat) : Nat :=
  if m = 0 then 2047 else min 2047 (max 512 (roundHalfUp (ref * 1024) m))

/-- The trims of a channel after a calibration (R98, R99). -/
def commitTrims (r : CalRun) (ptr : Nat) (m : Readings) (ch : Channel) (ts : List Nat) : List Nat :=
  mapFrom (fun x t =>
    if measured r.kind ptr x then newTrim (rgbGet r.ref ch) (readingOf m ch x) else t) 0 ts

/-- The dead markers of a channel after a calibration (R98, R99). -/
def commitDead (r : CalRun) (ptr : Nat) (m : Readings) (ch : Channel) (ds : List Bool) : List Bool :=
  mapFrom (fun x d => if measured r.kind ptr x then readingOf m ch x == 0 else d) 0 ds

/-- Every channel has at most 8 dead markers within elements 0..6,099 (R100). -/
def headFit (dead : Rgb (List Bool)) : Bool :=
  decide (State.deadCount dead.r ≤ 8) && decide (State.deadCount dead.g ≤ 8) &&
    decide (State.deadCount dead.b ≤ 8)

/-- The calibration unit after steps 1, 2 and 4 of R99 and the judgement of R100. -/
def CalUnit.commit (c : CalUnit) (r : CalRun) (m : Readings) : CalUnit :=
  let dead : Rgb (List Bool) :=
    ⟨commitDead r c.shortPtr m .r c.dead.r, commitDead r c.shortPtr m .g c.dead.g,
      commitDead r c.shortPtr m .b c.dead.b⟩
  { c with
    trim := ⟨commitTrims r c.shortPtr m .r c.trim.r, commitTrims r c.shortPtr m .g c.trim.g,
      commitTrims r c.shortPtr m .b c.trim.b⟩
    dead := dead
    shortPtr := if r.kind == .short then (c.shortPtr + 1) % 8 else c.shortPtr
    calibrated := headFit dead
    run := none }

/-- How long a calibration takes in ms (R97). -/
def calDuration : CalKind → Nat
  | .long => 400
  | .short => 60

namespace State

/-- The calibration in progress completes (R99, R100). -/
def calibrationEnds (s : State) (m : Readings) : State :=
  match s.cal.run with
  | none => s
  | some r =>
    let s := s.passTo (r.start + calDuration r.kind)
    let s := { s with cal := s.cal.commit r m, sched.framesSinceCal := 0 }
    let s := if s.cal.calibrated then s.raise .calDone else (s.raise .calFailed).addCause .head
    s.leaveWork

/-- The flush timer expires (R67). -/
def flushExpires (s : State) : State :=
  match s.sched.flushTimer with
  | none => s
  | some t => (s.passTo (t + s.sched.flushDelay * 1000)).startFlush

/-- The mark sensor input rises (R130). -/
def markRise (s : State) : State :=
  if s.cutter.markInput then s
  else
    { s with
      cutter.markInput := true
      cutter.candidate := some (s.cutter.candidate.getD s.transport.position) }

/-- The mark sensor input falls (R130). -/
def markFall (s : State) : State := { s with cutter.markInput := false, cutter.candidate := none }

/-- The blade is back in, and a due cut may fire (R135, R136). -/
def bladeHome (s : State) : State := { s with cutter.blade := .isIn }.tryCut

/-- CUT_DWELL after the fire (R136): the drive goes off and the blade becomes RETURNING; with the home
input asserted it is IN at once. -/
def dwellEnds (s : State) : State :=
  match s.cutter.blade with
  | .down since dwell =>
    let s := s.passTo (since + dwell)
    if s.cutter.homeInput then s.bladeHome else { s with cutter.blade := .returning s.ms }
  | _ => s

/-- 100 ms in RETURNING without home (R136). -/
def returnTimeout (s : State) : State :=
  match s.cutter.blade with
  | .returning since => { s.passTo (since + 100) with cutter.blade := .stuck }.addCause .cutter
  | _ => s

/-- The blade home input takes a level (R136, log 5). -/
def homeChange (s : State) (asserted : Bool) : State :=
  let t := { s with cutter.homeInput := asserted }
  match s.cutter.blade with
  | .returning _ | .stuck => if asserted then t.bladeHome else t
  | _ => t

end State

/-- CALIBRATION_COMPLETE (R99). -/
def execCalibrationComplete (m : Readings) (s : State) : Out := event s (s.calibrationEnds m)

/-- FLUSH_TIMER_EXPIRY (R67). -/
def execFlushTimerExpiry (s : State) : Out := event s s.flushExpires

/-- MARK_SENSOR_RISE (R130). -/
def execMarkSensorRise (s : State) : Out := event s s.markRise

/-- MARK_SENSOR_FALL (R130). -/
def execMarkSensorFall (s : State) : Out := event s s.markFall

/-- BLADE_DWELL_END (R136). -/
def execBladeDwellEnd (s : State) : Out := event s s.dwellEnds

/-- BLADE_RETURN_TIMEOUT (R136). -/
def execBladeReturnTimeout (s : State) : Out := event s s.returnTimeout

/-- BLADE_HOME_ASSERTED (R136). -/
def execBladeHomeAsserted (asserted : Bool) (s : State) : Out := event s (s.homeChange asserted)

end Sys2Proof.Machine
end

