-- ==== Sys2Proof/Machine/ProcessorEvents.lean ====
section
/-! DEFINITION. The events of the processor monitor, the sorter and the line's timers (chapters 8, 9, 10). -/

namespace Sys2Proof.Machine

namespace State

/-- Bin select and gate at an arrival (R163). -/
def steer (s : State) (b : Nat) : State :=
  { s with sorter.select := b, sorter.gate := some s.ms }

/-- The first bin of a list with room (R157). -/
def binWithRoom (s : State) (bs : List Nat) : Option Nat :=
  bs.find? fun b => decide ((s.sorter.bin b).count < Config.binCapacity)

/-- A sheet goes to the reject bin (R158): the count rises, and 200 or more raises REJECT_FULL. -/
def rejectSheet (s : State) : State :=
  let s := { s with sorter.reject := min 999 (s.sorter.reject + 1) }.steer 0
  if 200 ≤ s.sorter.reject then s.addCause .rejectFull else s

/-- A bin that receives a sheet (R157). -/
def fill (b : Bin) : Bin := { b with count := b.count + 1, state := .filling }

/-- A sheet is delivered into a bin of its order (R157), and moves w to d (R9). -/
def deliver (s : State) (i item b : Nat) (inspect : Bool) : State :=
  let s := { s with sorter := s.sorter.modBins fill [b] }.steer b
  let s := s.moveCounts i item fun n => { n with w := n.w - 1, d := n.d + 1 }
  let s := if inspect then (s.modOrder i fun o => { o with inspect := true }).raise .inspect else s
  s.afterMove i

/-- The sorter takes a sheet of an order (R156): a VOID order's to the reject bin. The bins of a live order
that is not VOID have room for every print in flight (R157), and a sheet's order is live while it is in flight
(R9, R160); a sheet that finds it otherwise is rejected, and skipped where its order is live (log 40). -/
def sortPrint (s : State) (x : OrderItem) (inspect : Bool) : State :=
  match s.findLive x.number with
  | none => s.rejectSheet
  | some i =>
    if (s.orderAt i).state == .void then s.rejectSheet.discard i x.item
    else match s.binWithRoom (s.orderAt i).bins with
      | some b => s.deliver i x.item b inspect
      | none => s.rejectSheet.discard i x.item

/-- The sorter takes a sheet (R156, R158): a TEST sheet to the reject bin, with INSPECT when flagged. -/
def sortSheet (s : State) (x : Sheet) : State :=
  match x.order with
  | some k => s.sortPrint k x.inspect
  | none => if x.inspect then s.rejectSheet.raise .inspect else s.rejectSheet

/-- An arrival (R148): the head sheet, or a stray; the watchdog is armed anew (R149). -/
def arrival (s : State) : State :=
  match s.monitor.sheets with
  | [] => s.rejectSheet
  | x :: rest => (({ s with monitor.sheets := rest }.dueAttempt).sortSheet x).checkWatchdog

/-- The entrance input has been asserted for 5 ms while the sensor was CLEAR (R148). -/
def sheetArrives (s : State) : State :=
  if s.monitor.input && !s.monitor.sensor then
    { s.passTo (s.monitor.inputSince + 5) with monitor.sensor := true }.arrival
  else s

/-- The entrance input has been released for 5 ms (R148). -/
def sensorClears (s : State) : State :=
  if !s.monitor.input && s.monitor.sensor then
    { s.passTo (s.monitor.inputSince + 5) with monitor.sensor := false }
  else s

/-- The entrance input takes a level; a change restarts the 5 ms (R148). -/
def entranceInput (s : State) (level : Bool) : State :=
  if s.monitor.input == level then s
  else { s with monitor.input := level, monitor.inputSince := s.ms }

/-- The transit watchdog reaches its expiry time (R150). -/
def watchdogExpires (s : State) : State :=
  match s.monitor.watchdog with
  | .armed t => (s.passTo t).jam
  | _ => s

/-- The current bucket advances at the next whole second and is cleared (R142). -/
def bucketAdvance (s : State) : State :=
  let k := s.monitor.second + 1
  let s := s.passTo (k * 1000)
  { s with
    monitor.second := k
    monitor.buckets := modAt (fun _ => 0) s.monitor.buckets (k % 60) }.dueAttempt

/-- A pump pulse ends (R146). -/
def pulseEnds (s : State) : State :=
  match s.monitor.pump with
  | .pulse since len =>
    let s := s.passTo (since + len)
    { s with
      monitor.pulses := s.monitor.pulses - 1
      monitor.pump := .gap s.ms s.monitor.replPulse }
  | _ => s

/-- A pump gap ends (R146). -/
def gapEnds (s : State) : State :=
  match s.monitor.pump with
  | .gap since len => { s.passTo (since + len) with monitor.pump := .idle }.startPump
  | _ => s

/-- The bin gate goes off 100 ms after the last arrival (R163). -/
def gateOff (s : State) : State :=
  match s.sorter.gate with
  | some t => { s.passTo (t + 100) with sorter.gate := none }
  | none => s

/-- The standby timer expires (R173). -/
def standbyExpires (s : State) : State :=
  match s.ctl.standbyTimer with
  | some t => (s.passTo (t + s.ctl.timeout * 60000)).enterStandby
  | none => s

/-- The wake timer reaches 2,000 ms (R175): the wake's LONG starts. -/
def wakeExpires (s : State) : State :=
  match s.ctl.wakeTimer with
  | some t => { s.passTo (t + 2000) with ctl.wakeTimer := none }.startCalibration .long
  | none => s

end State

/-- SHEET_ARRIVAL (R148). -/
def execSheetArrival (s : State) : Out := event s s.sheetArrives

/-- ENTRANCE_SENSOR_CLEAR (R148). -/
def execEntranceSensorClear (s : State) : Out := event s s.sensorClears

/-- TRANSIT_WATCHDOG_EXPIRY (R150). -/
def execTransitWatchdogExpiry (s : State) : Out := event s s.watchdogExpires

/-- BUCKET_ADVANCE (R142). -/
def execBucketAdvance (s : State) : Out := event s s.bucketAdvance

/-- PUMP_PULSE_END (R146). -/
def execPumpPulseEnd (s : State) : Out := event s s.pulseEnds

/-- PUMP_GAP_END (R146). -/
def execPumpGapEnd (s : State) : Out := event s s.gapEnds

/-- BIN_GATE_OFF (R163). -/
def execBinGateOff (s : State) : Out := event s s.gateOff

/-- STANDBY_TIMER_EXPIRY (R173). -/
def execStandbyTimerExpiry (s : State) : Out := event s s.standbyExpires

/-- WAKE_TIMER_EXPIRY (R175). -/
def execWakeTimerExpiry (s : State) : Out := event s s.wakeExpires

/-- SORTER_ENTRANCE_INPUT_CHANGE (R148). -/
def execSorterEntranceInputChange (level : Bool) (s : State) : Out := event s (s.entranceInput level)

end Sys2Proof.Machine
end

