-- ==== Sys2Proof/Machine/Dispatch.lean ====
section
/-! DEFINITION. The meaning of each command: one arm for each row of the table. -/

namespace Sys2Proof.Machine

def exec (i : Instr) (s : State) : Host.Outcome State Fault Refusal :=
  match i with
  | .powerOn => Sys2Proof.Machine.execPowerOn s
  | .orderOpen h a => Sys2Proof.Machine.execOrderOpen h a s
  | .itemAdd h a => Sys2Proof.Machine.execItemAdd h a s
  | .itemRemove h number item => Sys2Proof.Machine.execItemRemove h number item s
  | .imageLoad h slot width height => Sys2Proof.Machine.execImageLoad h slot width height s
  | .imageRelease h slot => Sys2Proof.Machine.execImageRelease h slot s
  | .orderCommit h number prepaid => Sys2Proof.Machine.execOrderCommit h number prepaid s
  | .orderWithdraw h number => Sys2Proof.Machine.execOrderWithdraw h number s
  | .orderDiscard h number => Sys2Proof.Machine.execOrderDiscard h number s
  | .priceStage h a => Sys2Proof.Machine.execPriceStage h a s
  | .priceStageGlobals h a => Sys2Proof.Machine.execPriceStageGlobals h a s
  | .priceActivate h => Sys2Proof.Machine.execPriceActivate h s
  | .orderSettle h number => Sys2Proof.Machine.execOrderSettle h number s
  | .orderPay h number amount => Sys2Proof.Machine.execOrderPay h number amount s
  | .orderCollect h number => Sys2Proof.Machine.execOrderCollect h number s
  | .orderCancel h number => Sys2Proof.Machine.execOrderCancel h number s
  | .orderHold h number => Sys2Proof.Machine.execOrderHold h number s
  | .orderRelease h number => Sys2Proof.Machine.execOrderRelease h number s
  | .orderReprint h number item n => Sys2Proof.Machine.execOrderReprint h number item n s
  | .lineRun h => Sys2Proof.Machine.execLineRun h s
  | .linePause h => Sys2Proof.Machine.execLinePause h s
  | .lineReset h => Sys2Proof.Machine.execLineReset h s
  | .lineWake h => Sys2Proof.Machine.execLineWake h s
  | .faultClear h causes => Sys2Proof.Machine.execFaultClear h causes s
  | .headCalibrate h kind preempt => Sys2Proof.Machine.execHeadCalibrate h kind preempt s
  | .calRefSet h ref shortEvery => Sys2Proof.Machine.execCalRefSet h ref shortEvery s
  | .patternSet h mode => Sys2Proof.Machine.execPatternSet h mode s
  | .testPrint h slot count => Sys2Proof.Machine.execTestPrint h slot count s
  | .correctionSet h surface corr => Sys2Proof.Machine.execCorrectionSet h surface corr s
  | .correctionHold h mode => Sys2Proof.Machine.execCorrectionHold h mode s
  | .curveLoad h surface channel levels => Sys2Proof.Machine.execCurveLoad h surface channel levels s
  | .driveLoad h channel codes => Sys2Proof.Machine.execDriveLoad h channel codes s
  | .backprintConfig h enable start stop => Sys2Proof.Machine.execBackprintConfig h enable start stop s
  | .magazineConfig h a => Sys2Proof.Machine.execMagazineConfig h a s
  | .magazinePresent h slot presence => Sys2Proof.Machine.execMagazinePresent h slot presence s
  | .rollSet h slot length => Sys2Proof.Machine.execRollSet h slot length s
  | .pathConfig h countsPerRev speedNom flushDelay => Sys2Proof.Machine.execPathConfig h countsPerRev speedNom flushDelay s
  | .cutterConfig h a => Sys2Proof.Machine.execCutterConfig h a s
  | .processorConfig h a => Sys2Proof.Machine.execProcessorConfig h a s
  | .routeSet h window1 window2 => Sys2Proof.Machine.execRouteSet h window1 window2 s
  | .standbyConfig h a => Sys2Proof.Machine.execStandbyConfig h a s
  | .binEmptied h bin => Sys2Proof.Machine.execBinEmptied h bin s
  | .itemSkip h number item => Sys2Proof.Machine.execItemSkip h number item s
  | .jamClear h n => Sys2Proof.Machine.execJamClear h n s
  | .orderStatus h number => Sys2Proof.Machine.execOrderStatus h number s
  | .orderList h state => Sys2Proof.Machine.execOrderList h state s
  | .binStatus h => Sys2Proof.Machine.execBinStatus h s
  | .lineStatus h => Sys2Proof.Machine.execLineStatus h s
  | .magazineStatus h => Sys2Proof.Machine.execMagazineStatus h s
  | .priceRead h copy entry => Sys2Proof.Machine.execPriceRead h copy entry s
  | .flagsRead h => Sys2Proof.Machine.execFlagsRead h s
  | .flagsClear h mask => Sys2Proof.Machine.execFlagsClear h mask s
  | .flagsEnable h word => Sys2Proof.Machine.execFlagsEnable h word s
  | .replyRead port further => Sys2Proof.Machine.execReplyRead port further s
  | .malformedRequestFrame port bytes cut => Sys2Proof.Machine.execMalformedRequestFrame port bytes cut s
  | .frameValidRise => Sys2Proof.Machine.execFrameValidRise s
  | .imageWordStrobe word lineValid => Sys2Proof.Machine.execImageWordStrobe word lineValid s
  | .frameValidFall => Sys2Proof.Machine.execFrameValidFall s
  | .encoderTransition forward => Sys2Proof.Machine.execEncoderTransition forward s
  | .encoderIndexPulse => Sys2Proof.Machine.execEncoderIndexPulse s
  | .encoderNoCountTimeout => Sys2Proof.Machine.execEncoderNoCountTimeout s
  | .deadReckoningAdvance us => Sys2Proof.Machine.execDeadReckoningAdvance us s
  | .clearProbeSuccess => Sys2Proof.Machine.execClearProbeSuccess s
  | .clearProbeFailure => Sys2Proof.Machine.execClearProbeFailure s
  | .detectInputChange slot level strip => Sys2Proof.Machine.execDetectInputChange slot level strip s
  | .detectDebounced slot => Sys2Proof.Machine.execDetectDebounced slot s
  | .paperEnd slot shows => Sys2Proof.Machine.execPaperEnd slot shows s
  | .changeoverComplete => Sys2Proof.Machine.execChangeoverComplete s
  | .calibrationComplete readings => Sys2Proof.Machine.execCalibrationComplete readings s
  | .flushTimerExpiry => Sys2Proof.Machine.execFlushTimerExpiry s
  | .markSensorRise => Sys2Proof.Machine.execMarkSensorRise s
  | .markSensorFall => Sys2Proof.Machine.execMarkSensorFall s
  | .bladeDwellEnd => Sys2Proof.Machine.execBladeDwellEnd s
  | .bladeReturnTimeout => Sys2Proof.Machine.execBladeReturnTimeout s
  | .bladeHomeAsserted asserted => Sys2Proof.Machine.execBladeHomeAsserted asserted s
  | .sheetArrival => Sys2Proof.Machine.execSheetArrival s
  | .entranceSensorClear => Sys2Proof.Machine.execEntranceSensorClear s
  | .transitWatchdogExpiry => Sys2Proof.Machine.execTransitWatchdogExpiry s
  | .bucketAdvance => Sys2Proof.Machine.execBucketAdvance s
  | .pumpPulseEnd => Sys2Proof.Machine.execPumpPulseEnd s
  | .pumpGapEnd => Sys2Proof.Machine.execPumpGapEnd s
  | .binGateOff => Sys2Proof.Machine.execBinGateOff s
  | .standbyTimerExpiry => Sys2Proof.Machine.execStandbyTimerExpiry s
  | .wakeTimerExpiry => Sys2Proof.Machine.execWakeTimerExpiry s
  | .sorterEntranceInputChange level => Sys2Proof.Machine.execSorterEntranceInputChange level s

end Sys2Proof.Machine
end

