-- ==== Sys2Proof/Machine/Step.lean ====
section
/-! DEFINITION. One step: the command at the front of the queue; on an empty queue the time base moves on
by 1 µs, and with it what dead reckoning moves (log 1). -/

namespace Sys2Proof.Machine

/-- One step. The front command is taken off the queue and carried out; with no command waiting the
block lets 1 µs of its time base pass. -/
def step (s : State) : Host.Outcome State Fault Refusal :=
  match s.pending with
  | i :: rest => exec i { s with pending := rest }
  | [] => .next s.idle

/-- The state with the command that a table word spells put at the front of its queue; no row of the
table gives bits, so no word spells one (log 27). -/
def State.withFetchWord (s : State) (nbits w : Nat) : State :=
  match decodeTableWord nbits w with
  | some i => { s with pending := i :: s.pending }
  | none => s

end Sys2Proof.Machine
end

