-- ==== Sys2Proof/Safety.lean ====
section
/-! DEFINITION. The terms claims are made in: what a command's coming to rest never changes (`lasting`),
and the soundness predicates that every step keeps. -/

namespace Sys2Proof.Machine

/-! ### What lasts -/

/-- Counters with the pending and the in-flight prints counted together: a frame start moves one from p to
w (R8). -/
def Counts.lasting (n : Counts) : Counts := { n with w := 0, p := n.p + n.w }

/-- An order record less what a scan, a release event or a frame start writes: its state, the hold reason
PAPER, its bins, started, and how its prints split into pending and in flight. All else stays: number,
origin, service, promo, sequence, the other hold reasons, lock, settled, paid, inspect, the items. -/
def Order.lasting (o : Order) : Order :=
  { o with
    state := .free, holds.paper := false, bins := [], started := false
    items := o.items.map fun x => { x with n := x.n.lasting }
    index := o.index.map fun x => { x with n := x.n.lasting } }

/-- The scheduler less what scans, attempts and timers write. -/
def Scheduler.lasting (c : Scheduler) : Scheduler :=
  { c with waitCause := .none, request := none, framesSinceCal := 0, flushTimer := none,
           queueBlocked := false, deferred := false }

/-- The engine less the frame in progress, the live corrections and the back-print counters. -/
def Engine.lasting (e : Engine) : Engine :=
  { e with work := .idle, live := .all (.all Corr.zero), waiting := false, bpCounters := [],
           strobe := none, presented := .zero, strobed := [] }

/-- The calibration unit less the calibration and the test request under way. -/
def CalUnit.lasting (c : CalUnit) : CalUnit := { c with pending := none, run := none, test := none }

/-- The transport less the motor, what a motor start writes, and the changeover in progress. -/
def Transport.lasting (t : Transport) : Transport :=
  { t with motor := false, speed := none, lastCount := 0, pulseUs := none, matched := false,
           nomInUse := 0, changeover := none }

/-- The line controller less the line state, the cause ENCODER, the standby timer, and a pause that a frame
end may carry out (R166). -/
def LineCtl.lasting (c : LineCtl) : LineCtl :=
  { c with line := .stopped, runEnable := c.runEnable && !c.pausePending, pausePending := false,
           faults.encoder := false, standbyTimer := none }

/-- A port less its flag copy. -/
def PortState.lasting (p : PortState) : PortState := { p with flags := 0 }

/-- The state less everything that bringing a command to rest may change (`settle`): scans, attempts and
frame starts, flushes, changeovers and calibrations that begin, timers, motor, head outputs and flags.
Two states that agree in it agree in all the rest. -/
def State.lasting (s : State) : State :=
  { s with
    due := Due.none
    book := { s.book with records := s.book.records.map Order.lasting, queue := [] }
    sched := s.sched.lasting
    engine := s.engine.lasting
    cal := s.cal.lasting
    transport := s.transport.lasting
    cutter.web := []
    monitor.buckets := []
    sorter.bins := []
    ctl := s.ctl.lasting
    ports := ⟨s.ports.order.lasting, s.ports.till.lasting, s.ports.line.lasting⟩ }

/-! ### Commands carried out -/

/-- `o` answers the next state that comes of bringing `after` to rest, and of what lasts nothing but the
difference of `before` and `after` has changed: `after` is `before` with the command's own effect. -/
def Happens (o : Out) (before after : State) : Prop :=
  o = .next (State.settle before after) ∧ (State.settle before after).lasting = after.lasting

/-- The same for a request of code `code`: its reply is placed in its port's holder as well. -/
def Served (o : Out) (before after : State) (h : Hdr) (code : Nat) (st : Status) (payload : List Byte) :
    Prop :=
  o = .next ((State.settle before after).place h code st payload) ∧
    (State.settle before after).lasting = after.lasting

/-- A request refused with `st`: its reply is placed, and nothing else changes (R179). -/
def Refused (o : Out) (s : State) (h : Hdr) (code : Nat) (st : Status) : Prop :=
  o = .next (s.place h code st [])

/-! ### Requests -/

/-- The ports a request is open to, by its code (R179, R185). -/
def requestRoles (code : Nat) : List Port :=
  if code ≤ 8 then [.order]
  else if code ≤ 15 then [.till]
  else if code ≤ 17 then [.till, .line]
  else if code = 18 then [.till]
  else if code ≤ 43 then [.line]
  else [.order, .till, .line]

/-! ### Orders -/

/-- The record an accepted ORDER_COMMIT leaves: promo bounded by the table, the price lock taken, the index
given its product, the next sequence, and prepaid orders paid with the locked F. -/
def committedRecord (s : State) (o : Order) (prepaid : Bool) : Order :=
  let o' := { o with promo := min o.promo s.prices.active.globals.promoMax }
  { o' with
    state := .queued
    lock := some (priceLock s.prices o')
    index := o.index.map fun x => { x with product := some s.prices.active.globals.indexProduct }
    sequence := some (s.book.sequence + 1)
    paid := if prepaid then some (quote s.prices.active o').f else o.paid }

/-- The prints lost with the web, in order: the aborted frame's, then each other record's (R91). -/
def State.lostPrints (s : State) : List OrderItem :=
  match s.frame? with
  | some c => (c.target.map fun t => OrderItem.mk t.number t.item).toList ++
      s.cutter.web.dropLast.filterMap (·.order)
  | none => s.cutter.web.filterMap (·.order)

/-! ### Stored data -/

/-- A product entry is one the table of 2.1 and R34 allow. -/
def Product.sound (p : Product) : Bool :=
  [89, 102, 127, 152, 203, 210, 254, 305].contains p.geom.across && within p.geom.along 76 610 &&
    decide (p.base ≤ 50000) && decide (p.tiers.length ≤ 3) && tiersValid p.base p.tiers

/-- Globals that the table of 2.1 allows (R35). -/
def Globals.sound (g : Globals) : Bool :=
  decide (g.express ≤ 1000) && decide (g.promoMax ≤ 500) && decide (g.indexPrice ≤ 50000) &&
    decide (g.indexProduct ≤ 15) && decide (g.minCharge ≤ 50000) && decide (g.tax ≤ 3000) &&
    cashStepValid g.cashStep

/-- A price table: sixteen sound entries and sound globals. -/
def PriceTable.sound (t : PriceTable) : Bool :=
  decide (t.products.length = 16) && t.products.all Product.sound && t.globals.sound

/-- A property of each channel. -/
def rgbAll {α : Type} (p : α → Bool) (v : Rgb α) : Bool := p v.r && p v.g && p v.b

/-- A property of each surface and channel. -/
def surfaceAll {α : Type} (p : α → Bool) (v : PerSurface (Rgb α)) : Bool :=
  rgbAll p v.gloss && rgbAll p v.matte && rgbAll p v.lustre

/-- A curve: 256 levels of 0..127 (R80). -/
def curveSound (l : List Nat) : Bool := decide (l.length = 256) && l.all fun v => decide (v ≤ 127)

/-- A drive table: 128 codes of 0..1023, each no less than the one before it (R81). -/
def driveSound (l : List Nat) : Bool :=
  decide (l.length = 128) && l.all (fun v => decide (v ≤ 1023)) && nonDecreasing l

/-- A correction: balance −60..60, offset 0..63 (R85). -/
def Corr.sound (c : Corr) : Bool :=
  decide (-60 ≤ c.balance) && decide (c.balance ≤ 60) && decide (c.offset ≤ 63)

/-- The element trims of a channel: one for each element of the head, each 512..2047 (R98). -/
def trimSound (l : List Nat) : Bool :=
  decide (l.length = Config.headElements) && l.all fun v => within v 512 2047

/-- The page pool (R27): no page stands twice in the slots' lists, each is one of the 131,072 pages, and pages
allocated and pages free make up all of them. -/
def ImageStore.pagesSound (m : ImageStore) : Prop :=
  m.allocated.Nodup ∧ (∀ p ∈ m.allocated, p < 131072) ∧ m.allocated.length + m.freePages = 131072

/-- What the part has stored is within its bounds: both price tables (R34, R35), a 16-bit generation,
the DRAM in its canonical form, curves, drive tables, staged corrections and element trims, and the page pool. -/
def StoreSound (s : State) : Prop :=
  s.prices.active.sound = true ∧ s.prices.staged.sound = true ∧ s.prices.generation < 65536 ∧
    Memory.wf s.images.dram = true ∧ surfaceAll curveSound s.engine.curves = true ∧
    rgbAll driveSound s.engine.drive = true ∧ surfaceAll Corr.sound s.engine.staged = true ∧
    rgbAll trimSound s.cal.trim = true ∧ s.images.pagesSound

/-- What only a few commands write: the queue, the prices, the DRAM and the slots' page lists, the exposure
tables, the staged corrections and the element trims. -/
structure Stored where
  pending : List Instr
  prices : PriceUnit
  dram : List Host.Cell
  pages : List (List Nat)
  curves : PerSurface (Rgb (List Nat))
  drive : Rgb (List Nat)
  staged : PerSurface (Rgb Corr)
  trim : Rgb (List Nat)

/-- The stored data of a state. -/
def State.stored (s : State) : Stored :=
  ⟨s.pending, s.prices, s.images.dram, s.images.slots.map (·.pages), s.engine.curves, s.engine.drive,
    s.engine.staged, s.cal.trim⟩

/-! ### The order book -/

/-- The order book is consistent: 64 records; the print queue holds the QUEUED records and no others, each
once, EXPRESS before STANDARD and in ascending sequence within a class (R23); at most one record is ACTIVE
(R24); live order numbers are distinct and not 0 (R2); a committed record has a sequence, no two records the
same, and none above the counter (R14). -/
structure BookSound (s : State) : Prop where
  size : s.book.records.length = Config.orderRecords
  queueOnce : s.book.queue.Nodup
  queueExact : ∀ i, i ∈ s.book.queue ↔ (s.orderAt i).state = .queued
  queueInOrder : s.book.queue.Pairwise fun i j => (s.orderAt i).ahead (s.orderAt j) = true
  oneActive : ∀ i j, (s.orderAt i).state = .active → (s.orderAt j).state = .active → i = j
  numbered : ∀ i, (s.orderAt i).live = true → (s.orderAt i).number ≠ 0
  distinct : ∀ i j, (s.orderAt i).live = true → (s.orderAt j).live = true →
    (s.orderAt i).number = (s.orderAt j).number → i = j
  sequenced : ∀ i, (s.orderAt i).committedState = true → (s.orderAt i).sequence.isSome = true
  counted : ∀ i n, (s.orderAt i).sequence = some n → n ≤ s.book.sequence
  sequenceOnce : ∀ i j n, (s.orderAt i).sequence = some n → (s.orderAt j).sequence = some n → i = j

/-! ### Prints and bins -/

/-- The prints on the web and in the processor, each by order number and item position. -/
def State.carriers (s : State) : List OrderItem :=
  s.cutter.web.filterMap (·.order) ++ s.monitor.sheets.filterMap (·.order)

/-- The prints are accounted for: in a live order d + w + p + s = q + c for every item and the index (R7), and
w counts the prints on the web and in the processor that carry its number and position (R8 to R10); every
carried print is one of a live order; only PRINT and INDEX records carry one, the last of them the print of the
frame being written (R71); an order not started has none in flight and none delivered (R8), an OPEN order is
not started (R15), and a READY order has none in flight (1.4). -/
structure CountsSound (s : State) : Prop where
  balance : ∀ i, (s.orderAt i).live = true → ∀ n ∈ (s.orderAt i).counts, n.d + n.w + n.p + n.s = n.q + n.c
  inFlight : ∀ i k n, (s.orderAt i).live = true → (s.orderAt i).countsAt k = some n →
    n.w = s.carriers.count ⟨(s.orderAt i).number, k⟩
  carried : ∀ x ∈ s.carriers, ∃ i, (s.orderAt i).live = true ∧ (s.orderAt i).number = x.number ∧
    ((s.orderAt i).countsAt x.item).isSome = true
  kinds : ∀ r ∈ s.cutter.web, r.order.isSome = true → r.kind = .print ∨ r.kind = .index
  written : ∀ c, s.engine.work = .frame c → ∃ r, s.cutter.web.getLast? = some r ∧ r.kind ≠ .closing ∧
    r.order = c.target.map fun t => ⟨t.number, t.item⟩
  fresh : ∀ i, (s.orderAt i).started = false → (s.orderAt i).sum (·.w) = 0 ∧ (s.orderAt i).sum (·.d) = 0
  openFresh : ∀ i, (s.orderAt i).state = .opened → (s.orderAt i).started = false
  readyLanded : ∀ i, (s.orderAt i).state = .ready → (s.orderAt i).sum (·.w) = 0

/-- A bin's owner and count are those its state allows (R153). -/
def Bin.sound (b : Bin) : Bool :=
  match b.state with
  | .free => b.owner.isNone && decide (b.count = 0)
  | .reserved => b.owner.isSome && decide (b.count = 0)
  | .filling => b.owner.isSome && within b.count 1 100
  | .complete => b.owner.isSome && decide (b.count ≤ 100)
  | .purge => b.owner.isNone && within b.count 1 100

/-- The bins stay with their owners: 24 bins, each as its state allows (R153); an owned bin stands in the list of
the one live order it is owned by, and every bin of a live order's list is owned by it, COMPLETE exactly when
the order is READY (R159); no list holds a bin twice, or more than four while the order's prints ordered and given
are at most 400 (R155; where they can be more, log 41), and an OPEN or VOID order holds none (R160, R161); the
bins of an order hold its delivered prints (R157), and have room for the rest once it is ACTIVE or has prints in
flight (R155); a committed order's prints ordered are at most 400 (R12), the index one of them when it was asked
for (R6). -/
structure BinsSound (s : State) : Prop where
  size : s.sorter.bins.length = 24
  shape : ∀ b ∈ s.sorter.bins, b.sound = true
  owned : ∀ b n, (s.sorter.bin b).owner = some n →
    ∃ i, (s.orderAt i).live = true ∧ (s.orderAt i).number = n ∧ b ∈ (s.orderAt i).bins
  listed : ∀ i, (s.orderAt i).live = true → ∀ b ∈ (s.orderAt i).bins, 1 ≤ b ∧ b ≤ 24 ∧
    (s.sorter.bin b).owner = some (s.orderAt i).number ∧
    ((s.sorter.bin b).state = .complete ↔ (s.orderAt i).state = .ready)
  lists : ∀ i, (s.orderAt i).bins.Nodup ∧
    (State.printsWith (s.orderAt i) 0 ≤ 400 → (s.orderAt i).bins.length ≤ 4)
  noBins : ∀ i, (s.orderAt i).state = .opened ∨ (s.orderAt i).state = .void → (s.orderAt i).bins = []
  filled : ∀ i, (s.orderAt i).live = true → (s.orderAt i).state ≠ .void →
    total ((s.orderAt i).bins.map fun b => (s.sorter.bin b).count) = (s.orderAt i).sum (·.d)
  room : ∀ i, (s.orderAt i).state = .active ∨ (s.orderAt i).state ≠ .void ∧ 0 < (s.orderAt i).sum (·.w) →
    (s.orderAt i).sum (fun n => n.d + n.w + n.p) ≤ 100 * (s.orderAt i).bins.length
  quantity : ∀ i, (s.orderAt i).committedState = true → State.ordered (s.orderAt i) ≤ 400
  index : ∀ i, (s.orderAt i).index.isSome = (s.orderAt i).indexRequested ∧
    ∀ x, (s.orderAt i).index = some x → x.n.q = 1 ∧ x.n.c = 0

/-! ### Rest -/

/-- The machine between commands: nothing is due; the motor runs as R110 says; the flush and standby timers run
exactly under their conditions (R67, R173); the head presents what R70 says; every level flag whose condition
holds is set in every copy (R182); the position is within 48 bits (R109); and dead reckoning, in force exactly
under the ENCODER condition, has the position at the base and the counts of the running time (R114). -/
structure AtRest (s : State) : Prop where
  due : s.due = Due.none
  motor : s.transport.motor = s.motorWanted
  flushTimer : s.sched.flushTimer.isSome = s.flushRuns
  standbyTimer : s.ctl.standbyTimer.isSome = s.standbyRuns
  head : s.engine.presented = s.headDrive
  flags : ∀ p, s.conditionWord &&& ~~~ (s.port p).flags = 0
  position : s.transport.position ≤ 281474976710655
  encoder : s.transport.deadReckoning.isSome = s.transport.encoder
  reckoned : ∀ d, s.transport.deadReckoning = some d → d.base ≤ 281474976710655 ∧
    (s.transport.probe = none → s.transport.position = d.position)

end Sys2Proof.Machine
end

