-- ==== Sys2Proof/WellFormed.lean ====
section
/-! DEFINITION. The checks of a command's operands that its types do not make: what no sender can give.
The value ranges of the requests are NOT here: a request out of range is well formed and is refused by
its rule (R179). -/

namespace Sys2Proof

/-- Operands a sender can give. The two table loads have the length R177 requires, a monitor reading
names an element of the head (R98), and a malformed frame is a request frame that R177 refuses. -/
def Instr.wellFormed : Instr → Bool
  | .curveLoad _ _ _ levels => levels.length == 256
  | .driveLoad _ _ codes => codes.length == 128
  | .calibrationComplete m => m.others.all (fun x => decide (x.element < Config.headElements))
  | .malformedRequestFrame _ bytes cut =>
    !bytes.isEmpty && (bytes.head?.map BitVec.toNat != some replyReadCode) && frameMalformed bytes cut
  | .powerOn | .orderOpen _ _ | .itemAdd _ _ | .itemRemove _ _ _ | .imageLoad _ _ _ _
  | .imageRelease _ _ | .orderCommit _ _ _ | .orderWithdraw _ _ | .orderDiscard _ _
  | .priceStage _ _ | .priceStageGlobals _ _ | .priceActivate _ | .orderSettle _ _
  | .orderPay _ _ _ | .orderCollect _ _ | .orderCancel _ _ | .orderHold _ _ | .orderRelease _ _
  | .orderReprint _ _ _ _ | .lineRun _ | .linePause _ | .lineReset _ | .lineWake _
  | .faultClear _ _ | .headCalibrate _ _ _ | .calRefSet _ _ _ | .patternSet _ _ | .testPrint _ _ _
  | .correctionSet _ _ _ | .correctionHold _ _ | .backprintConfig _ _ _ _ | .magazineConfig _ _
  | .magazinePresent _ _ _ | .rollSet _ _ _ | .pathConfig _ _ _ _ | .cutterConfig _ _
  | .processorConfig _ _ | .routeSet _ _ _ | .standbyConfig _ _ | .binEmptied _ _ | .itemSkip _ _ _
  | .jamClear _ _ | .orderStatus _ _ | .orderList _ _ | .binStatus _ | .lineStatus _
  | .magazineStatus _ | .priceRead _ _ _ | .flagsRead _ | .flagsClear _ _ | .flagsEnable _ _
  | .replyRead _ _ | .frameValidRise | .imageWordStrobe _ _ | .frameValidFall
  | .encoderTransition _ | .encoderIndexPulse | .encoderNoCountTimeout | .deadReckoningAdvance _
  | .clearProbeSuccess | .clearProbeFailure | .detectInputChange _ _ _ | .detectDebounced _
  | .paperEnd _ _ | .changeoverComplete | .flushTimerExpiry | .markSensorRise | .markSensorFall
  | .bladeDwellEnd | .bladeReturnTimeout | .bladeHomeAsserted _ | .sheetArrival
  | .entranceSensorClear | .transitWatchdogExpiry | .bucketAdvance | .pumpPulseEnd | .pumpGapEnd
  | .binGateOff | .standbyTimerExpiry | .wakeTimerExpiry | .sorterEntranceInputChange _ => true

end Sys2Proof
end

