-- ==== Sys2Proof/Certificates/Slice0/Obligations.lean ====
section
/-! DEFINITION. The statements for the provers. `settle` brings every command that is carried out to rest,
and may start frames, scans, flushes, changeovers and calibrations; so a statement of a command's own
effect compares what lasts through it (`State.lasting`), or says what the next state holds. -/

open Sys2Proof Sys2Proof.Machine

/-! ### The machine -/

/-- One step is the front command carried out on the state with the queue's rest. With no command waiting 1 µs
passes (the model's tick, log 1): outside dead reckoning only the time base moves; dead reckoning in force
counts the µs, as an advance by 1 µs does, and the position follows it (R114). -/
def Obligations.StepTakesTheFrontCommand : Prop :=
  (∀ (c : Instr) (rest : List Instr) (s : State),
    step { s with pending := c :: rest } = exec c { s with pending := rest }) ∧
  (∀ s : State, s.pending = [] →
    (s.reckons = false → step s = .next { s with now := s.now + 1 }) ∧
    (s.reckons = true → step s = exec (.deadReckoningAdvance 1) s ∧
      ∃ t, step s = .next t ∧ t.now = s.now + 1 ∧ t.pending = [] ∧
        ∀ d, s.transport.deadReckoning = some d → s.transport.encoder = true →
          t.transport.deadReckoning = some { d with runUs := d.runUs + 1 } ∧
          t.transport.position = min 281474976710655 (d.base + d.speed * (d.runUs + 1) / 1000000)))

/-- Every command completes in every state and leaves the queue of waiting commands alone. -/
def Obligations.EveryCommandCompletes : Prop :=
  ∀ (c : Instr) (s : State), ∃ t, exec c s = .next t ∧ t.pending = s.pending

/-- The values of power-on, block by block: those the spec gives, and the model's own where it gives none: the
time base at 0 (log 1), no transfer made yet on any port (`out`, log 26), nothing held back (`deferred`, log 28)
and no matching pulse yet (`matched`, log 33). POWER_ON gives every block these values; the queue and the levels
of the inputs stay (the model's choice, log 4). -/
def Obligations.ResetLeavesPowerOnValues : Prop :=
  (∀ s : State, s = State.reset →
  (s.pending = [] ∧ s.now = 0) ∧
  (s.book.records = List.replicate 64 Order.free ∧ s.book.queue = [] ∧ s.book.sequence = 0) ∧
  (s.images.slots = List.replicate 512 ImageSlot.free ∧ s.images.load = none ∧
    s.images.freePages = 131072) ∧
  (s.prices = ⟨PriceTable.powerOn, PriceTable.powerOn, 0⟩) ∧
  (s.sched = { waitCause := .runEnable, request := none, framesSinceCal := 0, shortEvery := 200,
               flushTimer := none, flushDelay := 10, queueBlocked := false, deferred := false }) ∧
  (s.engine.work = .idle ∧ s.engine.hold = false ∧ s.engine.waiting = false ∧
    s.engine.bpEnable = false ∧ s.engine.bpStart = 100 ∧ s.engine.bpStop = 400 ∧
    s.engine.bpCounters = List.replicate 64 0 ∧ s.engine.strobe = none) ∧
  (s.engine.curves.gloss.r.getD 0 0 = 127 ∧ s.engine.curves.gloss.r.getD 128 0 = 63 ∧
    s.engine.curves.gloss.r.getD 255 0 = 0 ∧ s.engine.drive.r.getD 127 0 = 1016) ∧
  (s.cal.calibrated = false ∧ s.cal.shortPtr = 0 ∧ s.cal.pending = none ∧ s.cal.run = none ∧
    s.cal.pattern = false ∧ s.cal.test = none ∧ s.cal.trim.r.getD 0 0 = 1024) ∧
  (s.transport.position = 0 ∧ s.transport.motor = false ∧ s.transport.threaded = none ∧
    s.transport.encoder = false ∧ s.transport.countsPerRev = 12000 ∧ s.transport.speedNom = 100 ∧
    s.transport.lowMm = 3000 ∧ s.transport.endLead = 150 ∧ s.transport.matched = false) ∧
  (s.magState .m1 = .absent ∧ s.magState .m2 = .absent) ∧
  (s.cutter.web = [] ∧ s.cutter.lastCut = none ∧ s.cutter.blade = .isIn ∧
    s.cutter.diverter = .chute ∧ s.cutter.markPath = 11600 ∧ s.cutter.blank = 2000 ∧
    s.cutter.markTol = 100 ∧ s.cutter.cutOffset = 400 ∧ s.cutter.cutDwell = 30) ∧
  (s.monitor.window = 0 ∧ s.monitor.sheets = [] ∧ s.monitor.pulses = 0 ∧ s.monitor.stop = none ∧
    s.monitor.budget = 12000 ∧ s.monitor.replUnit = 600 ∧ s.monitor.replPulse = 250 ∧
    s.monitor.transit = 380 ∧ s.monitor.tol = 20 ∧ s.monitor.watchdog = .disarmed) ∧
  (s.sorter.bins = List.replicate 24 ⟨.free, none, 0⟩ ∧ s.sorter.reject = 0 ∧
    s.sorter.window1 = ⟨0, 0, .a⟩ ∧ s.sorter.window2 = ⟨0, 0, .a⟩ ∧ s.sorter.select = 0 ∧
    s.sorter.gate = none) ∧
  (s.ctl.line = .stopped ∧ s.ctl.runEnable = false ∧ s.ctl.pausePending = false ∧
    s.ctl.faults = FaultSet.none ∧ s.ctl.timeout = 15 ∧ s.ctl.lastProbe = .none) ∧
  (s.ports = ⟨⟨none, 0, 0, []⟩, ⟨none, 0, 0, []⟩, ⟨none, 0, 0, []⟩⟩)) ∧
  (∀ s : State, ∃ t, exec .powerOn s = .next t ∧ t.pending = s.pending ∧ t.now = 0 ∧
    t.book = State.reset.book ∧ t.prices = State.reset.prices ∧ t.sched = State.reset.sched ∧
    t.engine = State.reset.engine ∧ t.cal = State.reset.cal ∧ t.sorter = State.reset.sorter ∧
    t.ctl = State.reset.ctl ∧ t.ports = State.reset.ports ∧ t.due = State.reset.due ∧
    t.images = { State.reset.images with frameValid := s.images.frameValid } ∧
    t.cutter = { State.reset.cutter with
      markInput := s.cutter.markInput, homeInput := s.cutter.homeInput } ∧
    t.monitor = { State.reset.monitor with input := s.monitor.input } ∧
    t.transport = { State.reset.transport with
      m1 := { State.reset.transport.m1 with
        detect := s.transport.m1.detect, strip := s.transport.m1.strip
        endInput := s.transport.m1.endInput }
      m2 := { State.reset.transport.m2 with
        detect := s.transport.m2.detect, strip := s.transport.m2.strip
        endInput := s.transport.m2.endInput } })

/-! ### Ports (chapter 11) -/

/-- Every request is answered in its own port's holder with its tag and code, data out having presented 0 in
every bit of its frame (R176; kept in `out`, log 26); the other ports' holders and data out stay. A request on
a port it is not open to is refused with E_ROLE, and nothing else changes. -/
def Obligations.EveryRequestIsAnswered : Prop :=
  (∀ (i : Instr) (code : Nat) (h : Hdr) (ps : List Byte) (s : State),
    encodeParams i = some (code, h, ps) →
    ∃ t st payload, exec i s = .next t ∧
      (t.port h.port).holder = some ⟨st, h.tag, byte code, payload⟩ ∧
      (t.port h.port).out = List.replicate (4 + (requestLength code).getD 0) 0 ∧
      (∀ b ∈ t.dataOut h.port, b = false) ∧
      (∀ p, p ≠ h.port → (t.port p).holder = (s.port p).holder ∧ (t.port p).out = (s.port p).out)) ∧
  (∀ (i : Instr) (code : Nat) (h : Hdr) (ps : List Byte) (s : State),
    encodeParams i = some (code, h, ps) → h.port ∉ requestRoles code →
    exec i s = .next (s.place h code .eRole []))

/-- A malformed request frame is answered E_FORMAT with tag and code as received, data out 0 for each of its
bytes, and changes nothing else. A reply transfer presents the held reply byte by byte and empties the holder
when every byte has been clocked; an empty holder presents NONE and stays empty; nothing else changes. (`out`
keeps what data out presented, log 26.) -/
def Obligations.PortTransfersAnswerAndEmpty : Prop :=
  (∀ (p : Port) (code : Byte) (rest : List Byte) (cut : Bool) (s : State),
      code.toNat ≠ replyReadCode → frameMalformed (code :: rest) cut = true →
      exec (.malformedRequestFrame p (code :: rest) cut) s =
        .next (s.modPort (fun x => { x with
          holder := some ⟨.eFormat, rest.headD 0, code, []⟩
          out := List.replicate (rest.length + 1) 0 }) p)) ∧
  (∀ (p : Port) (n : Nat) (s : State),
      ((s.port p).holder = none → exec (.replyRead p n) s =
        .next (s.modPort (fun x => { x with out := State.clocked State.emptyReply n }) p)) ∧
      (∀ r, (s.port p).holder = some r → (State.replyBytes r).length ≤ n → exec (.replyRead p n) s =
        .next (s.modPort (fun x => { x with out := State.clocked (State.replyBytes r) n, holder := none }) p)) ∧
      (∀ r, (s.port p).holder = some r → n < (State.replyBytes r).length → exec (.replyRead p n) s =
        .next (s.modPort (fun x => { x with out := State.clocked (State.replyBytes r) n }) p)))

/-- The frame of a well-formed request, taken on its port, spells that request again. -/
def Obligations.RequestFrameRoundTrip : Prop :=
  ∀ (i : Instr) (code : Nat) (h : Hdr) (ps bytes : List Byte), i.wellFormed = true →
    encodeParams i = some (code, h, ps) → requestFrame i = some bytes →
    parseTransfer h.port bytes false = some i

/-- FLAGS_READ, FLAGS_CLEAR and FLAGS_ENABLE act on the copy and the enables of their own port and leave all
else; a mask or an enable word with a bit that names no flag is refused with E_RANGE and changes nothing. The
condition word holds LINE_FAULT while the fault set is not empty, PAPER_LOW while a slot is LOW or EMPTY,
BIN_ATTENTION while a bin is PURGE or the reject count is not 0, STANDBY in STANDBY, QUEUE_BLOCKED while the
queue is blocked, and no other bit. A port's attention output is asserted exactly while a flag of its copy is
set with its enable on. -/
def Obligations.FlagRequestsActOnTheirOwnPort : Prop :=
  (∀ (h : Hdr) (m : Half) (s : State),
    exec (.flagsRead h) s = .next (s.place h 50 .ok
      (halfBytes (s.port h.port).flags ++ halfBytes (s.port h.port).enables ++ halfBytes s.conditionWord)) ∧
    (m &&& 0xc000 = 0 → ∀ w : Half, w = ((s.port h.port).flags &&& ~~~m) ||| (s.conditionWord &&& m) →
      exec (.flagsClear h m) s = .next (State.place
        (s.modPort (fun x => { x with flags := w }) h.port) h 51 .ok (halfBytes w)) ∧
      exec (.flagsEnable h m) s = .next (State.place
        (s.modPort (fun x => { x with enables := m }) h.port) h 52 .ok [])) ∧
    (m &&& 0xc000 ≠ 0 →
      exec (.flagsClear h m) s = .next (s.place h 51 .eRange []) ∧
      exec (.flagsEnable h m) s = .next (s.place h 52 .eRange []))) ∧
  (∀ s : State,
    (s.conditionWord.getLsbD 9 = true ↔ s.ctl.faults ≠ FaultSet.none) ∧
    (s.conditionWord.getLsbD 10 = true ↔ ∃ m, s.magState m = .low ∨ s.magState m = .empty) ∧
    (s.conditionWord.getLsbD 11 = true ↔ (∃ b ∈ s.sorter.bins, b.state = .purge) ∨ 0 < s.sorter.reject) ∧
    (s.conditionWord.getLsbD 12 = true ↔ s.ctl.line = .standby) ∧
    (s.conditionWord.getLsbD 13 = true ↔ s.sched.queueBlocked = true) ∧
    (∀ k, k < 9 ∨ 13 < k → s.conditionWord.getLsbD k = false) ∧
    ∀ p, s.attention p = true ↔
      ∃ k, (s.port p).flags.getLsbD k = true ∧ (s.port p).enables.getLsbD k = true)

/-- The reading requests place their reply and change nothing else. PRICE_READ gives the selected entry of
the selected copy with the generation, refuses any other selector with E_RANGE, and changes nothing. -/
def Obligations.ReadingRequestsChangeNothing : Prop :=
  (∀ (h : Hdr) (number : Half) (state : Byte) (s : State),
      (∀ i, s.findLive number.toNat = some i → exec (.orderStatus h number) s =
        .next (s.place h 44 .ok (orderRecord (s.orderAt i)))) ∧
      (s.findLive number.toNat = none → exec (.orderStatus h number) s =
        .next (s.place h 44 .eNoOrder [])) ∧
      (∀ st, orderStateOf state = some st → exec (.orderList h state) s =
        .next (s.place h 45 .ok
          ([byte (s.listed st).length] ++ (s.listed st).flatMap le16))) ∧
      (orderStateOf state = none → exec (.orderList h state) s = .next (s.place h 45 .eRange [])) ∧
      exec (.binStatus h) s = .next (s.place h 46 .ok (binRecord s.sorter)) ∧
      exec (.lineStatus h) s = .next (s.place h 47 .ok s.lineRecord) ∧
      exec (.magazineStatus h) s = .next (s.place h 48 .ok s.magazineRecord)) ∧
  (∀ (h : Hdr) (copy entry : Byte) (s : State),
      ((1 < copy.toNat ∨ 16 < entry.toNat) →
        exec (.priceRead h copy entry) s = .next (s.place h 49 .eRange [])) ∧
      (∀ table, (copy.toNat = 0 ∧ table = s.prices.active ∨ copy.toNat = 1 ∧ table = s.prices.staged) →
        (entry.toNat ≤ 15 → exec (.priceRead h copy entry) s = .next (s.place h 49 .ok
          (le16 s.prices.generation ++ productBytes (table.product entry.toNat)))) ∧
        (entry.toNat = 16 → exec (.priceRead h copy entry) s = .next (s.place h 49 .ok
          (le16 s.prices.generation ++ globalsBytes table.globals)))))

/-! ### Invariants -/

/-- Every step keeps the stored data within its bounds: price tables, curves, drive tables, staged corrections
and trims, the DRAM in its canonical form (an unlisted byte reads 0, the model's choice, log 20), and the page
pool: no page in two slots' lists, and pages allocated and pages free 131,072 together (R27). -/
def Obligations.StoredDataStaysSound : Prop :=
  ∀ s t : State, StoreSound s → step s = .next t → StoreSound t

/-- The invariants hold at reset: the stored data is within its bounds (the empty DRAM in canonical form by
log 20), the order book is consistent, the prints are accounted for, the bins stand with their owners, and the
machine is at rest. -/
def Obligations.InvariantsHoldAtReset : Prop :=
  StoreSound State.reset ∧ BookSound State.reset ∧ CountsSound State.reset ∧ BinsSound State.reset ∧
    AtRest State.reset

/-- Every step keeps the order book consistent: the print queue and its order, the one ACTIVE order,
distinct numbers and sequences. -/
def Obligations.OrderBookStaysSound : Prop :=
  ∀ s t : State, BookSound s → step s = .next t → BookSound t

/-- Every step leaves the machine at rest: nothing due; the motor, the flush timer and the standby timer run
exactly under their conditions; the head presents code 0 in IDLE (between lines as log 14 says); every level
flag whose condition holds is set in all three copies; the position stays within 48 bits; and under the
ENCODER condition, outside a clear probe, the position is the base and the counts of the running time. -/
def Obligations.EveryStepLeavesTheMachineAtRest : Prop :=
  ∀ s t : State, AtRest s → step s = .next t → AtRest t

/-- Every step keeps the prints accounted for: in every live order d + w + p + s = q + c for each item and the
index (R7), w the prints of it on the web and in the processor; every print carried is one of a live order; an
order not started has none in flight or delivered, and a READY order none in flight. -/
def Obligations.CountersAlwaysBalance : Prop :=
  ∀ s t : State, BookSound s → CountsSound s → step s = .next t → CountsSound t

/-- Every step keeps the bins with their owners (R153): an owned bin is in the list of the one live order that
owns it, in a state and with a count that go with it; COMPLETE bins are those of READY orders; OPEN and VOID
orders have none; the bins of an order hold its delivered prints and have room for the rest once it is ACTIVE
or has prints in flight, so a sheet always finds a bin with room. -/
def Obligations.BinsStayWithTheirOwners : Prop :=
  ∀ s t : State, BookSound s → CountsSound s → BinsSound s → step s = .next t → BinsSound t

/-- Only a word strobe of the image link and power-on write the DRAM; only the three staging and activation
requests and power-on write the price tables. -/
def Obligations.FewCommandsWriteDramAndPrices : Prop :=
  ∀ (c : Instr) (s t : State), exec c s = .next t → c ≠ .powerOn →
    ((∀ w lv, c ≠ .imageWordStrobe w lv) → ∀ a, Memory.read t.images.dram a = Memory.read s.images.dram a) ∧
    ((∀ h a, c ≠ .priceStage h a) → (∀ h a, c ≠ .priceStageGlobals h a) →
      (∀ h, c ≠ .priceActivate h) → t.prices = s.prices)

/-! ### The order book (chapter 1) -/

/-- Bringing a command to rest keeps the order book sound, and changes no record that is neither QUEUED nor
ACTIVE and does not hold the reason PAPER. -/
def Obligations.SettleLeavesUndisturbedOrders : Prop :=
  ∀ before s : State, BookSound s → BookSound (State.settle before s) ∧
    ∀ i, (s.orderAt i).state ≠ .queued → (s.orderAt i).state ≠ .active →
      (s.orderAt i).holds.paper = false → (State.settle before s).orderAt i = s.orderAt i

/-- A number finds the one live record that carries it. An order request whose number no live order carries
is refused with E_NO_ORDER. -/
def Obligations.NumbersFindTheirOrders : Prop :=
  (∀ (s : State) (n i : Nat), BookSound s →
      (s.findLive n = some i ↔ (s.orderAt i).live = true ∧ (s.orderAt i).number = n)) ∧
  (∀ (h : Hdr) (n : Half) (a : ItemAddArgs) (b k : Byte) (w : Wide) (s : State),
      s.findLive n.toNat = none → a.number = n →
      (h.port = .order → b.toNat ≤ 1 →
        Refused (exec (.itemAdd h a) s) s h 2 .eNoOrder ∧
        Refused (exec (.itemRemove h n k) s) s h 3 .eNoOrder ∧
        Refused (exec (.orderCommit h n b) s) s h 6 .eNoOrder ∧
        Refused (exec (.orderWithdraw h n) s) s h 7 .eNoOrder ∧
        Refused (exec (.orderDiscard h n) s) s h 8 .eNoOrder) ∧
      (h.port = .till →
        Refused (exec (.orderSettle h n) s) s h 12 .eNoOrder ∧
        Refused (exec (.orderPay h n w) s) s h 13 .eNoOrder ∧
        Refused (exec (.orderCollect h n) s) s h 14 .eNoOrder ∧
        Refused (exec (.orderCancel h n) s) s h 15 .eNoOrder ∧
        Refused (exec (.orderReprint h n k b) s) s h 18 .eNoOrder) ∧
      (h.port ≠ .order →
        Refused (exec (.orderHold h n) s) s h 16 .eNoOrder ∧
        Refused (exec (.orderRelease h n) s) s h 17 .eNoOrder) ∧
      (h.port = .line → Refused (exec (.itemSkip h n k) s) s h 42 .eNoOrder) ∧
      Refused (exec (.orderStatus h n) s) s h 44 .eNoOrder)

/-- ORDER_OPEN makes the lowest free record an OPEN order with the given fields, no items, an index
pseudo-item of one print when an index is asked for, and a back-print counter of 0. ORDER_OPEN is refused
with E_DUPLICATE for a number in use and with E_FULL when no record is free. -/
def Obligations.OrderOpenMakesAnOpenRecord : Prop :=
  (∀ (h : Hdr) (a : OrderOpenArgs) (s : State) (origin : Origin) (service : Service) (index : Bool)
      (i : Nat) (o : Order),
      h.port = .order → originOf a.origin = some origin → serviceOf a.service = some service →
      yesNo a.index = some index → a.number.toNat ≠ 0 → a.promo.toNat ≤ 500 →
      s.findLive a.number.toNat = none → firstRecord (fun o => !o.live) s.book.records = some i →
      o = { number := a.number.toNat, state := .opened, origin := origin, service := service,
            indexRequested := index, promo := a.promo.toNat, sequence := none,
            holds := ⟨false, false, false, false⟩, items := [],
            index := if index then some ⟨none, ⟨1, 0, 0, 0, 1, 0, 0⟩⟩ else none,
            bins := [], lock := none, settled := none, paid := none, started := false, inspect := false } →
      Served (exec (.orderOpen h a) s) s
        { s.modOrder i (fun _ => o) with
          engine.bpCounters := modAt (fun _ => 0) s.engine.bpCounters i } h 1 .ok [] ∧
      (BookSound s → (State.settle s { s.modOrder i (fun _ => o) with
          engine.bpCounters := modAt (fun _ => 0) s.engine.bpCounters i }).orderAt i = o)) ∧
  (∀ (h : Hdr) (a : OrderOpenArgs) (s : State),
      h.port = .order → (originOf a.origin).isSome = true → (serviceOf a.service).isSome = true →
      (yesNo a.index).isSome = true → a.number.toNat ≠ 0 → a.promo.toNat ≤ 500 →
      (s.findLive a.number.toNat ≠ none → Refused (exec (.orderOpen h a) s) s h 1 .eDuplicate) ∧
      (s.findLive a.number.toNat = none → (∀ o ∈ s.book.records, o.live = true) →
        Refused (exec (.orderOpen h a) s) s h 1 .eFull))

/-- ITEM_ADD appends an item with q prints pending to an OPEN order, counts the image slot's reference and
answers the position; ITEM_REMOVE takes an item out again, positions closing up. -/
def Obligations.ItemRequestsEditAnOpenOrder : Prop :=
  ∀ (h : Hdr) (s : State) (i : Nat), h.port = .order → (s.orderAt i).state = .opened →
    (∀ (a : ItemAddArgs) (mirror : Mirror) (rotate : Bool) (trims : Rgb Int) (x : Item),
      s.findLive a.number.toNat = some i → mirrorOf a.mirror = some mirror →
      yesNo a.rotate = some rotate → rgbSignedWithin a.trims 30 = some trims →
      a.slot.toNat ≤ 511 → a.product.toNat ≤ 15 → 1 ≤ a.qty.toNat → a.qty.toNat ≤ 99 →
      (s.orderAt i).items.length < 16 → s.itemsUsed < 512 →
      (s.images.slot a.slot.toNat).state ≠ .free →
      x = { slot := a.slot.toNat, product := a.product.toNat, mirror := mirror, rotate := rotate,
            trims := trims, n := ⟨a.qty.toNat, 0, 0, 0, a.qty.toNat, 0, 0⟩ } →
      Served (exec (.itemAdd h a) s) s
        { s.modOrder i (fun o => { o with items := o.items ++ [x] }) with
          images := s.images.addRef a.slot.toNat } h 2 .ok
        [byte ((s.orderAt i).items.length + 1)]) ∧
    (∀ (n : Half) (k : Byte) (x : Item),
      s.findLive n.toNat = some i → k.toNat ≠ 0 → (s.orderAt i).items[k.toNat - 1]? = some x →
      Served (exec (.itemRemove h n k) s) s
        { s.modOrder i (fun o => { o with items := o.items.eraseIdx (k.toNat - 1) }) with
          images := s.images.dropRef x.slot } h 3 .ok [])

/-- ORDER_COMMIT of an OPEN order that passes every check of R12 locks its prices, gives it the next
sequence, queues it by service and sequence, wakes a standing-by line when commits wake, and answers the
quote. ORDER_COMMIT names the first item that fails: its image, then its size, then its product, before the
first activation too (R32 against R12's order: the model's choice, log 43). -/
def Obligations.OrderCommitLocksAndQueues : Prop :=
  (∀ (h : Hdr) (n : Half) (b : Byte) (pre : Bool) (s : State) (i : Nat) (o r : Order)
      (base : State),
      h.port = .order → yesNo b = some pre → s.findLive n.toNat = some i → o = s.orderAt i →
      o.state = .opened → (pre = true → o.origin = .online) → o.items ≠ [] →
      (∀ x ∈ o.items, s.itemLoaded x = true ∧ s.itemFits x = true ∧ s.itemEnabled x = true) →
      s.indexEnabled o = true → State.ordered o ≤ 400 → s.book.sequence < 4294967295 →
      r = committedRecord s o pre →
      base = { s with
        book.records := modAt (fun _ => r) s.book.records i
        book.queue := insertQueue (modAt (fun _ => r) s.book.records i) i s.book.queue
        book.sequence := s.book.sequence + 1
        due.scan := true } →
      Served (exec (.orderCommit h n b) s) s (if s.ctl.wakeCommit then base.wake else base) h 6 .ok
        (State.breakdownBytes (quote s.prices.active
          { o with promo := min o.promo s.prices.active.globals.promoMax }))) ∧
  (∀ (h : Hdr) (n : Half) (b : Byte) (pre : Bool) (s : State) (i k : Nat) (o : Order) (x : Item),
      h.port = .order → yesNo b = some pre → s.findLive n.toNat = some i → o = s.orderAt i →
      o.state = .opened → (pre = true → o.origin = .online) → o.items[k]? = some x →
      (s.itemLoaded x = false → (∀ j, j < k → ∀ y, o.items[j]? = some y → s.itemLoaded y = true) →
        exec (.orderCommit h n b) s = .next (s.place h 6 .eImage [byte (k + 1)])) ∧
      ((∀ y ∈ o.items, s.itemLoaded y = true) → s.itemFits x = false →
        (∀ j, j < k → ∀ y, o.items[j]? = some y → s.itemFits y = true) →
        exec (.orderCommit h n b) s = .next (s.place h 6 .eSize [byte (k + 1)])) ∧
      ((∀ y ∈ o.items, s.itemLoaded y = true ∧ s.itemFits y = true) → s.itemEnabled x = false →
        (∀ j, j < k → ∀ y, o.items[j]? = some y → s.itemEnabled y = true) →
        exec (.orderCommit h n b) s = .next (s.place h 6 .eProduct [byte (k + 1)])))

/-- ORDER_WITHDRAW gives a QUEUED, unpaid, not started order back to OPEN without lock, sequence and bins,
the bins FREE; any other order it refuses with E_STATE. ORDER_DISCARD frees an OPEN order's record and its
image references and raises ORDER_FREED; an order in another state it refuses with E_STATE. -/
def Obligations.WithdrawReopensAndDiscardFrees : Prop :=
  (∀ (h : Hdr) (n : Half) (s : State) (i : Nat) (o r : Order),
      h.port = .order → s.findLive n.toNat = some i → o = s.orderAt i →
      r = { o with state := .opened, lock := none, sequence := none, settled := none, bins := [],
                   index := o.index.map fun x => { x with product := none } } →
      (o.state = .queued → o.started = false → o.paid = none →
        ∃ u : State, Served (exec (.orderWithdraw h n) s) s u h 7 .ok [] ∧
          u.orderAt i = r ∧ (∀ j, j ≠ i → u.orderAt j = s.orderAt j) ∧
          u.book.queue = s.book.queue.filter (· != i) ∧ u.book.sequence = s.book.sequence ∧
          u.sorter = s.sorter.modBins (fun _ => Bin.free) o.bins ∧
          u.lasting = { s with book := u.book, sorter := u.sorter }.lasting) ∧
      (o.state ≠ .queued ∨ o.started = true ∨ o.paid ≠ none →
        Refused (exec (.orderWithdraw h n) s) s h 7 .eState)) ∧
  (∀ (h : Hdr) (n : Half) (s : State) (i : Nat),
      h.port = .order → s.findLive n.toNat = some i →
      ((s.orderAt i).state = .opened →
        Served (exec (.orderDiscard h n) s) s
          ({ s.modOrder i (fun _ => Order.free) with
            images := (s.orderAt i).items.foldl (fun m (x : Item) => m.dropRef x.slot) s.images }.raise .orderFreed)
          h 8 .ok []) ∧
      ((s.orderAt i).state ≠ .opened → Refused (exec (.orderDiscard h n) s) s h 8 .eState))

/-! ### The image store (1.8) -/

/-- IMAGE_LOAD takes the lowest free pages for the image and puts the slot in LOADING as the load in flight,
its former pages having been returned. IMAGE_LOAD is refused while a load is in flight, on a LOADED slot in
use, and when pages are short. -/
def Obligations.ImageLoadTakesPages : Prop :=
  (∀ (h : Hdr) (k w v : Half) (s : State) (m : ImageStore),
      h.port = .order → k.toNat ≤ 511 → 16 ≤ w.toNat → w.toNat ≤ 6100 → 16 ≤ v.toNat → v.toNat ≤ 12200 →
      s.images.load = none →
      ((s.images.slot k.toNat).state = .loaded → (s.images.slot k.toNat).refs = 0) →
      pagesFor w.toNat v.toNat ≤ s.images.freePages + (s.images.slot k.toNat).pages.length →
      m = s.images.modSlot k.toNat (fun x => { x with pages := [] }) →
      Served (exec (.imageLoad h k w v) s) s
        { s with images := { m.modSlot k.toNat (fun x =>
            { x with state := .loading, size := some ⟨w.toNat, v.toNat⟩
                     pages := m.take (pagesFor w.toNat v.toNat) }) with
          load := some ⟨k.toNat, 0, false⟩ } } h 4 .accepted []) ∧
  (∀ (h : Hdr) (k w v : Half) (s : State),
      h.port = .order → k.toNat ≤ 511 → 16 ≤ w.toNat → w.toNat ≤ 6100 → 16 ≤ v.toNat → v.toNat ≤ 12200 →
      (s.images.load ≠ none → Refused (exec (.imageLoad h k w v) s) s h 4 .eBusy) ∧
      (s.images.load = none → (s.images.slot k.toNat).state = .loaded →
        0 < (s.images.slot k.toNat).refs → Refused (exec (.imageLoad h k w v) s) s h 4 .eInUse) ∧
      (s.images.load = none →
        ((s.images.slot k.toNat).state = .loaded → (s.images.slot k.toNat).refs = 0) →
        s.images.freePages + (s.images.slot k.toNat).pages.length < pagesFor w.toNat v.toNat →
        Refused (exec (.imageLoad h k w v) s) s h 4 .eMemory))

/-- IMAGE_RELEASE frees an unused slot and its pages; on a LOADING slot it ends the load with IMAGE_FAULT
and takes the slot's items out of OPEN orders; a slot in use is refused. A load that ends in a fault leaves
its slot FREE without size and pages, no load in flight, no item of an OPEN order naming the slot, all other
orders as they were, and raises IMAGE_FAULT on every port. -/
def Obligations.ReleaseAndLoadFaultFreeTheSlot : Prop :=
  (∀ (h : Hdr) (k : Half) (s : State), h.port = .order → k.toNat ≤ 511 →
      (0 < (s.images.slot k.toNat).refs → Refused (exec (.imageRelease h k) s) s h 5 .eInUse) ∧
      ((s.images.slot k.toNat).refs = 0 →
        ((s.images.slot k.toNat).state = .free → Served (exec (.imageRelease h k) s) s s h 5 .ok []) ∧
        ((s.images.slot k.toNat).state = .loaded → Served (exec (.imageRelease h k) s) s
          { s with images := s.images.modSlot k.toNat fun x =>
              { x with state := .free, size := none, pages := [] } } h 5 .ok []) ∧
        ((s.images.slot k.toNat).state = .loading →
          Served (exec (.imageRelease h k) s) s (s.loadFault k.toNat) h 5 .ok []))) ∧
  (∀ (s : State) (k : Nat), k < s.images.slots.length →
      ((s.loadFault k).images.slot k).state = .free ∧ ((s.loadFault k).images.slot k).size = none ∧
      ((s.loadFault k).images.slot k).pages = [] ∧ (s.loadFault k).images.load = none ∧
      (∀ j, j ≠ k → (s.loadFault k).images.slot j = s.images.slot j) ∧
      (∀ i, (s.orderAt i).state ≠ .opened → (s.loadFault k).orderAt i = s.orderAt i) ∧
      (∀ i, (s.orderAt i).state = .opened → (s.loadFault k).orderAt i =
        { s.orderAt i with items := (s.orderAt i).items.filter fun x => x.slot != k }) ∧
      (∀ p, ((s.loadFault k).port p).flags = (s.port p).flags ||| 16) ∧
      (s.loadFault k).images.dram = s.images.dram)

/-- The edges of frame-valid: the rise starts the load in flight; the fall ends it, LOADED with IMAGE_DONE
when every word has been taken, in a load fault otherwise. A word strobe of a started load with frame-valid
and line-valid asserted stores the word's low byte and, inside the image, its high byte at the next two
places of the image's byte stream, and leaves every other byte of the DRAM; one word too many is a load
fault; at any other time nothing is taken. -/
def Obligations.ImageLinkRunsTheLoad : Prop :=
  (∀ s : State,
      (s.images.frameValid = true → Happens (exec .frameValidRise s) s s) ∧
      (s.images.frameValid = false → Happens (exec .frameValidRise s) s
        { s with images.frameValid := true
                 images.load := s.images.load.map fun l => { l with started := true } }) ∧
      ((s.images.frameValid = false ∨ s.images.load = none ∨
          ∃ l, s.images.load = some l ∧ l.started = false) →
        Happens (exec .frameValidFall s) s { s with images.frameValid := false }) ∧
      (∀ l z, s.images.frameValid = true → s.images.load = some l → l.started = true →
        (s.images.slot l.slot).size = some z →
        (wordsFor z ≤ l.taken → Happens (exec .frameValidFall s) s
          ({ s with images := { s.images.modSlot l.slot (fun x => { x with state := .loaded }) with
              frameValid := false, load := none } }.raise .imageDone)) ∧
        (l.taken < wordsFor z → Happens (exec .frameValidFall s) s
          ({ s with images.frameValid := false }.loadFault l.slot)))) ∧
  (∀ (w : Half) (lv : Bool) (s : State),
      ((s.images.load = none ∨ s.images.frameValid = false ∨ lv = false ∨
          ∃ l, s.images.load = some l ∧ l.started = false) →
        Happens (exec (.imageWordStrobe w lv) s) s s) ∧
      (∀ l z, s.images.load = some l → l.started = true → s.images.frameValid = true → lv = true →
        (s.images.slot l.slot).size = some z →
        (wordsFor z ≤ l.taken → Happens (exec (.imageWordStrobe w lv) s) s (s.loadFault l.slot)) ∧
        (l.taken < wordsFor z → Memory.wf s.images.dram = true →
          ∃ dram, Happens (exec (.imageWordStrobe w lv) s) s
              { s with images.dram := dram, images.load := some { l with taken := l.taken + 1 } } ∧
            ∀ a, Memory.read dram a =
              if 2 * l.taken + 1 < 3 * z.width * z.height ∧
                  pageAddress (s.images.slot l.slot).pages (2 * l.taken + 1) = some a then
                w.extractLsb' 8 8
              else if pageAddress (s.images.slot l.slot).pages (2 * l.taken) = some a then
                w.extractLsb' 0 8
              else Memory.read s.images.dram a)))

/-! ### Prices and settlement (chapter 2) -/

/-- PRICE_STAGE replaces one product of the staged table, PRICE_STAGE_GLOBALS its globals; PRICE_ACTIVATE
copies it to the active table, counts the generation modulo 65,536, raises PRICES_ACTIVATED and answers the
generation. Tiers against R34 are refused with E_TABLE. -/
def Obligations.PriceRequestsStageAndActivate : Prop :=
  ∀ (h : Hdr) (s : State), h.port = .till →
    (∀ (a : PriceStageArgs) (enabled : Bool) (across : Nat) (f : ProductSurface) (p : Product),
      yesNo a.enabled = some enabled → widthOf a.width.toNat = some across →
      productSurfaceOf a.surface = some f → a.product.toNat ≤ 15 → 76 ≤ a.along.toNat →
      a.along.toNat ≤ 610 → a.base.toNat ≤ 50000 → a.tierCount.toNat ≤ 3 →
      p = { enabled := enabled, geom := ⟨across, a.along.toNat, f⟩, base := a.base.toNat,
            tiers := ([a.tier1, a.tier2, a.tier3].take a.tierCount.toNat).map fun t =>
              ⟨t.qty.toNat, t.price.toNat⟩ } →
      (tiersValid p.base p.tiers = true → Served (exec (.priceStage h a) s) s
        { s with prices.staged.products := modAt (fun _ => p) s.prices.staged.products a.product.toNat }
        h 9 .ok []) ∧
      (tiersValid p.base p.tiers = false → Refused (exec (.priceStage h a) s) s h 9 .eTable)) ∧
    (∀ a : GlobalsArgs, a.express.toNat ≤ 1000 → a.promoMax.toNat ≤ 500 → a.indexPrice.toNat ≤ 50000 →
      a.indexProduct.toNat ≤ 15 → a.minCharge.toNat ≤ 50000 → a.tax.toNat ≤ 3000 →
      a.cashStep.toNat ∈ [1, 2, 5, 10, 20, 50, 100] →
      Served (exec (.priceStageGlobals h a) s) s
        { s with prices.staged.globals :=
            { express := a.express.toNat, promoMax := a.promoMax.toNat,
              indexPrice := a.indexPrice.toNat, indexProduct := a.indexProduct.toNat,
              minCharge := a.minCharge.toNat, tax := a.tax.toNat, cashStep := a.cashStep.toNat } }
        h 10 .ok []) ∧
    Served (exec (.priceActivate h) s) s
      ({ s with prices := ⟨s.prices.staged, s.prices.staged, (s.prices.generation + 1) % 65536⟩ }.raise
        .pricesActivated) h 11 .ok (le16 ((s.prices.generation + 1) % 65536))

/-- R47: each stage of the breakdown does not fall when its inputs rise, N rises by 0 or 1 when G + E rises
by 1, and a G of 0 gives an N′ of 0; so an order settled from the lock taken at its commit, with the items
and quantities it had then, has each settled value at most the quoted value of the same stage, and the
change of a customer who paid the quoted F is not negative. -/
def Obligations.SettlementNeverAboveQuote : Prop :=
  (∀ x d : Nat, d ≤ 500 →
    x - roundHalfUp (x * d) 1000 ≤ x + 1 - roundHalfUp ((x + 1) * d) 1000 ∧
    x + 1 - roundHalfUp ((x + 1) * d) 1000 ≤ x - roundHalfUp (x * d) 1000 + 1) ∧
  (∀ (cs qs : List Nat) (i j promo : Nat) (gl : Globals) (express : Bool) (x y : Breakdown),
    promo ≤ 500 → List.Forall₂ (· ≤ ·) cs qs → i ≤ j →
    x = breakdown cs i gl express promo → y = breakdown qs j gl express promo →
    (x.g = 0 → x.n = 0) ∧
    x.g ≤ y.g ∧ x.e ≤ y.e ∧ x.d ≤ y.d ∧ x.n ≤ y.n ∧ x.t ≤ y.t ∧ x.a ≤ y.a ∧ x.f ≤ y.f) ∧
  (∀ (u : PriceUnit) (o o' : Order) (l : Lock) (x : Settled),
    u.active.sound = true → o.promo ≤ 500 → l = priceLock u o → o'.service = o.service →
    o'.promo = o.promo →
    o'.items.map (fun i => (i.product, i.n.q)) = o.items.map (fun i => (i.product, i.n.q)) →
    (o'.indexCharged = true → o.indexRequested = true) → x = settlement l o' →
    x.values.g ≤ l.quote.g ∧ x.values.e ≤ l.quote.e ∧ x.values.d ≤ l.quote.d ∧ x.values.n ≤ l.quote.n ∧
      x.values.t ≤ l.quote.t ∧ x.values.a ≤ l.quote.a ∧ x.values.f ≤ l.quote.f ∧
      ((l.quote.f : Int) - x.values.f ≥ 0))

/-- ORDER_SETTLE of a READY order records the settlement of its charged prints, of a VOID order one of zero,
and answers it with the payment and the amount due; ORDER_PAY records a payment that covers the figure in
force and answers the change. ORDER_COLLECT of a READY, settled and paid order frees its bins and its record,
raises ORDER_FREED and answers F, the payment and the difference; one not paid in full is refused with
E_SHORT_PAY. -/
def Obligations.SettlePayAndCollect : Prop :=
  (∀ (h : Hdr) (n : Half) (w : Wide) (s : State) (i : Nat) (o : Order),
    h.port = .till → s.findLive n.toNat = some i → o = s.orderAt i →
    (∀ l x, o.lock = some l →
      (o.state = .ready ∧ x = settlement l o ∨ o.state = .void ∧ x = voidSettlement l) →
      Served (exec (.orderSettle h n) s) s (s.modOrder i fun o => { o with settled := some x }) h 12 .ok
        (State.breakdownBytes x.values ++ [if o.paid.isSome then 1 else 0] ++ le32 (o.paid.getD 0) ++
          le32 (x.values.f - o.paid.getD 0))) ∧
    (w.toNat ≤ 99999999 → o.committedState = true → o.paid = none → o.figure ≤ w.toNat →
      Served (exec (.orderPay h n w) s) s (s.modOrder i fun o => { o with paid := some w.toNat }) h 13 .ok
        (le32 w.toNat ++ le32 (w.toNat - o.figure))) ∧
    (w.toNat ≤ 99999999 → o.committedState = true → o.paid ≠ none →
      Refused (exec (.orderPay h n w) s) s h 13 .ePaid) ∧
    (w.toNat ≤ 99999999 → o.committedState = true → o.paid = none → w.toNat < o.figure →
      Refused (exec (.orderPay h n w) s) s h 13 .eShortPay)) ∧
  (∀ (h : Hdr) (n : Half) (s : State) (i : Nat) (o : Order) (x : Settled),
    h.port = .till → s.findLive n.toNat = some i → o = s.orderAt i → o.state = .ready →
    o.settled = some x →
    (x.values.f ≤ o.paid.getD 0 →
      ∃ u : State, Served (exec (.orderCollect h n) s) s u h 14 .ok
          (le32 x.values.f ++ le32 (o.paid.getD 0) ++ le32 (o.paid.getD 0 - x.values.f)) ∧
        u.orderAt i = Order.free ∧ (∀ j, j ≠ i → u.orderAt j = s.orderAt j) ∧
        u.book.queue = s.book.queue ∧ u.book.sequence = s.book.sequence ∧
        u.sorter = s.sorter.modBins (fun _ => Bin.free) o.bins ∧
        u.images = o.items.foldl (fun m (x : Item) => m.dropRef x.slot) s.images ∧
        (∀ p, (u.port p).flags = (s.port p).flags ||| 4) ∧
        u.lasting = { s with book := u.book, sorter := u.sorter, images := u.images }.lasting) ∧
    (o.paid.getD 0 < x.values.f → Refused (exec (.orderCollect h n) s) s h 14 .eShortPay))

/-- ORDER_CANCEL frees an OPEN order; of a committed order it skips what is pending, gives up its bins,
clears holds, payment and settlement, and leaves it VOID while prints are in flight, FREE otherwise. -/
def Obligations.CancelFreesOrVoids : Prop :=
  ∀ (h : Hdr) (n : Half) (s : State) (i : Nat) (o r : Order),
    h.port = .till → s.findLive n.toNat = some i → o = s.orderAt i →
    (o.state = .opened → Served (exec (.orderCancel h n) s) s
      ({ s.modOrder i (fun _ => Order.free) with
        images := o.items.foldl (fun m (x : Item) => m.dropRef x.slot) s.images }.raise .orderFreed)
      h 15 .ok [0, 0, 0, 0, 0]) ∧
    (o.committedState = true →
      r = { o with
        items := o.items.map (fun x => { x with n := { x.n with p := 0, s := x.n.s + x.n.p } })
        index := o.index.map (fun x => { x with n := { x.n with p := 0, s := x.n.s + x.n.p } })
        holds := ⟨false, false, false, false⟩, bins := [], paid := none, settled := none } →
      ∃ u : State, Served (exec (.orderCancel h n) s) s u h 15 .ok
          ([if o.sum (·.w) = 0 then 0 else 7] ++ le32 (o.paid.getD 0)) ∧
        u.orderAt i = (if o.sum (·.w) = 0 then Order.free else { r with state := .void }) ∧
        (∀ j, j ≠ i → u.orderAt j = s.orderAt j) ∧ u.sorter = s.sorter.modBins Bin.give o.bins ∧
        u.book.queue = (if o.state = .queued then s.book.queue.filter (· != i) else s.book.queue) ∧
        u.book.sequence = s.book.sequence ∧
        u.images = (if o.sum (·.w) = 0 then
          o.items.foldl (fun m (x : Item) => m.dropRef x.slot) s.images else s.images) ∧
        (∀ p, (u.port p).flags = if o.sum (·.w) = 0 then (s.port p).flags ||| 4 else (s.port p).flags) ∧
        u.lasting = { s with book := u.book, sorter := u.sorter, images := u.images }.lasting)

/-- ORDER_HOLD adds TILL from the till port and OPERATOR from the line port; a QUEUED or DRAINING order is
HELD at once with ORDER_HELD raised, an ACTIVE one when no frame of it is being exposed, a HELD one stays; a
reason already there changes nothing. ORDER_RELEASE takes TILL away from the till port, OPERATOR and FAULT
from the line port with the spoil counts of 4 set to 0; a HELD order left without a reason is QUEUED when
prints are pending, else DRAINING when prints are in flight, else READY, with ORDER_READY raised and its bins
COMPLETE. -/
def Obligations.HoldAndReleaseMoveAnOrder : Prop :=
  (∀ (h : Hdr) (n : Half) (s : State) (i : Nat) (o : Order) (r : Hold),
      h.port = .till ∧ r = .till ∨ h.port = .line ∧ r = .operator → s.findLive n.toNat = some i →
      o = s.orderAt i →
      (o.state = .opened ∨ o.state = .ready ∨ o.state = .void →
        Refused (exec (.orderHold h n) s) s h 16 .eState) ∧
      (o.state ≠ .opened → o.state ≠ .ready → o.state ≠ .void →
        (o.holds.has r = true → Served (exec (.orderHold h n) s) s s h 16 .ok []) ∧
        (o.holds.has r = false → (o.state = .held ∨ o.state = .active ∧ s.exposes i = true) →
          Served (exec (.orderHold h n) s) s (s.modOrder i fun o => { o with holds := o.holds.add r })
            h 16 .ok []) ∧
        (o.holds.has r = false →
          (o.state = .queued ∨ o.state = .draining ∨ o.state = .active ∧ s.exposes i = false) →
          ∃ u : State, Served (exec (.orderHold h n) s) s u h 16 .ok [] ∧
            u.orderAt i = { o with holds := o.holds.add r, state := .held } ∧
            (∀ j, j ≠ i → u.orderAt j = s.orderAt j) ∧
            u.book.queue = (if o.state = .queued then s.book.queue.filter (· != i) else s.book.queue) ∧
            (∀ p, (u.port p).flags = (s.port p).flags ||| 2) ∧
            u.lasting = { s with book := u.book }.lasting))) ∧
  (∀ (h : Hdr) (n : Half) (s : State) (i : Nat) (o r : Order),
      s.findLive n.toNat = some i → o = s.orderAt i → o.state ≠ .opened → o.state ≠ .ready →
      o.state ≠ .void →
      (h.port = .till ∧ r = { o with holds.till := false } ∨
        h.port = .line ∧ r = { o with
          holds.operator := false, holds.fault := false
          items := o.items.map fun x => { x with n.spoil := if 3 < x.n.spoil then 0 else x.n.spoil }
          index := o.index.map fun x => { x with n.spoil := if 3 < x.n.spoil then 0 else x.n.spoil } }) →
      ∃ u : State, Served (exec (.orderRelease h n) s) s u h 17 .ok [] ∧
        u.orderAt i = (if o.state = .held ∧ r.holds.isEmpty = true then
          { r with
            state := if 0 < r.sum (·.p) then .queued else if 0 < r.sum (·.w) then .draining else .ready }
          else r) ∧
        (∀ j, j ≠ i → u.orderAt j = s.orderAt j) ∧
        (o.state = .held → r.holds.isEmpty = true → 0 < r.sum (·.p) →
          u.book.queue = insertQueue u.book.records i s.book.queue) ∧
        (∀ p, (u.port p).flags = (s.port p).flags ||| if (u.orderAt i).state = .ready then 1 else 0) ∧
        ((u.orderAt i).state = .ready →
          ∀ b ∈ o.bins, 1 ≤ b → b ≤ s.sorter.bins.length → (u.sorter.bin b).state = .complete) ∧
        u.lasting = { s with book := u.book }.lasting)

/-- ORDER_REPRINT of a READY order adds n courtesy prints to an item, reopens the order's bins, queues it
and wakes a standing-by line when reprints wake; more than 20 courtesy prints or 400 prints in all is
refused with E_QUANTITY. -/
def Obligations.ReprintQueuesAReadyOrder : Prop :=
  ∀ (h : Hdr) (n : Half) (k m : Byte) (s : State) (i : Nat) (o : Order) (x : Item),
    h.port = .till → s.findLive n.toNat = some i → o = s.orderAt i → o.state = .ready → k.toNat ≠ 0 →
    1 ≤ m.toNat → m.toNat ≤ 9 → o.items[k.toNat - 1]? = some x →
    (x.n.c + m.toNat ≤ 20 → State.printsWith o m.toNat ≤ 400 →
      ∃ u : State, Served (exec (.orderReprint h n k m) s) s (if s.ctl.wakeReprint then u.wake else u) h 18
          .ok [] ∧
        u.orderAt i = { o with state := .queued, items := modAt (fun x =>
          { x with n := { x.n with c := x.n.c + m.toNat, p := x.n.p + m.toNat } }) o.items (k.toNat - 1) } ∧
        (∀ j, j ≠ i → u.orderAt j = s.orderAt j) ∧
        u.book.queue = insertQueue u.book.records i s.book.queue ∧
        u.sorter = s.sorter.modBins Bin.reopen o.bins ∧
        u = { s with book := u.book, sorter := u.sorter, due.scan := true }) ∧
    (20 < x.n.c + m.toNat ∨ 400 < State.printsWith o m.toNat →
      Refused (exec (.orderReprint h n k m) s) s h 18 .eQuantity)

/-- ITEM_SKIP moves the pending prints of an item or of the index to skipped and answers their number; an
order left without pending prints leaves the print queue, or stops being ACTIVE, for the state its prints in
flight give it; READY raises ORDER_READY and turns its bins COMPLETE, HELD raises ORDER_HELD. -/
def Obligations.ItemSkipMovesPendingToSkipped : Prop :=
  ∀ (h : Hdr) (n : Half) (k : Byte) (s : State) (i : Nat) (o r : Order) (c : Counts),
    h.port = .line → s.findLive n.toNat = some i → o = s.orderAt i → o.state ≠ .opened →
    o.state ≠ .ready → o.state ≠ .void → o.countsAt k.toNat = some c →
    r = o.modCounts k.toNat (fun m => { m with p := 0, s := m.s + m.p }) →
    ∃ u : State, Served (exec (.itemSkip h n k) s) s u h 42 .ok [byte c.p] ∧
      u.orderAt i = { r with
        state := if 0 < r.sum (·.p) then o.state
          else if o.state = .queued then (if 0 < r.sum (·.w) then .draining else .ready)
          else if o.state = .active then
            (if 0 < r.sum (·.w) then (if r.holds.isEmpty then .draining else .held) else .ready)
          else o.state } ∧
      (∀ j, j ≠ i → u.orderAt j = s.orderAt j) ∧
      u.book.queue = (if o.state = .queued ∧ r.sum (·.p) = 0 then s.book.queue.filter (· != i)
        else s.book.queue) ∧
      (∀ p, (u.port p).flags = (s.port p).flags |||
        if (u.orderAt i).state = .ready then 1
        else if o.state = .active ∧ (u.orderAt i).state = .held then 2 else 0) ∧
      ((u.orderAt i).state = .ready →
        ∀ b ∈ o.bins, 1 ≤ b → b ≤ s.sorter.bins.length → (u.sorter.bin b).state = .complete) ∧
      u.lasting = { s with book := u.book }.lasting

/-! ### Running, resetting and waking the line (chapter 10) -/

/-- LINE_RESET outside STANDBY takes every block to its line-reset values and removes every cause but JAM;
in STANDBY it changes nothing. The aborted frame's print and every print on the web are spoiled first; the
ACTIVE order then becomes HELD when it has a hold reason, else QUEUED, DRAINING or READY by its counters, HELD
and READY raising their flags, and the other orders keep what the spoils left. What the settings, the prices, the image slots but for item
references, the DRAM, the exposure tables, the trims, the processor monitor, the windows, the reject count and
the bins hold is kept, but that the bins of an order that becomes READY are COMPLETE; the ports keep holder,
enables and data out, the reply apart. (`deferred` and `matched` are the model's own, logs 28 and 33.) -/
def Obligations.LineResetAbandonsThePaper : Prop :=
  ∀ (h : Hdr) (s : State), h.port = .line →
    (s.ctl.line = .standby → exec (.lineReset h) s = .next (s.place h 21 .ok [])) ∧
    (s.ctl.line ≠ .standby → ∀ v : State, v = s.lostPrints.foldl State.spoil s →
      ∃ u : State, Served (exec (.lineReset h) s) s u h 21 .ok [] ∧
      (∀ i, v.current = some i → u.orderAt i = { v.orderAt i with
        state := if (v.orderAt i).holds.isEmpty = false then .held
          else if 0 < (v.orderAt i).sum (·.p) then .queued
          else if 0 < (v.orderAt i).sum (·.w) then .draining else .ready }) ∧
      (∀ i p, v.current = some i →
        ((u.orderAt i).state = .ready → (u.port p).flags.getLsbD 0 = true) ∧
        ((u.orderAt i).state = .held → (u.port p).flags.getLsbD 1 = true)) ∧
      (∀ i, v.current ≠ some i → u.orderAt i = v.orderAt i) ∧
      u.engine.work = .idle ∧ u.engine.strobe = (if s.writing then none else s.engine.strobe) ∧
      u.cal = { s.cal with run := none, pending := none, pattern := false, test := none } ∧
      u.cutter = { s.cutter with
        web := [], lastCut := none, lastMark := none, candidate := none, diverter := .chute } ∧
      u.transport = { s.transport with
        position := 0, motor := false, indexRef := none, mismatches := 0, speed := none, pulseUs := none,
        matched := false, encoder := false, deadReckoning := none, probe := none, threaded := none
        changeover := none } ∧
      u.sched = { s.sched with
        request := none, flushTimer := none, waitCause := .runEnable, queueBlocked := false
        deferred := false } ∧
      u.ctl = { s.ctl with
        line := if s.ctl.faults.jam then .fault else .stopped
        runEnable := false, pausePending := false
        faults := ⟨false, s.ctl.faults.jam, false, false, false, false⟩
        standbyTimer := none, wakeTimer := none, lastProbe := .none } ∧
      u.monitor = s.monitor ∧ u.stored = s.stored ∧ u.sorter = { s.sorter with bins := u.sorter.bins } ∧
      (∀ b, (u.sorter.bin b).owner = (s.sorter.bin b).owner ∧
        (u.sorter.bin b).count = (s.sorter.bin b).count ∧
        ((u.sorter.bin b).state = (s.sorter.bin b).state ∨ (u.sorter.bin b).state = .complete ∧
          ∃ i, (u.orderAt i).state = .ready ∧ b ∈ (u.orderAt i).bins)) ∧
      (∀ k, (u.images.slot k).state = (s.images.slot k).state ∧
        (u.images.slot k).size = (s.images.slot k).size ∧
        (u.images.slot k).pages = (s.images.slot k).pages) ∧
      u.images.load = s.images.load ∧ u.images.frameValid = s.images.frameValid ∧
      (∀ p, (u.port p).holder = (s.port p).holder ∧ (u.port p).enables = (s.port p).enables ∧
        (u.port p).out = (s.port p).out) ∧
      u.now = s.now ∧ (BookSound s → ∀ i, (u.orderAt i).state ≠ .active))

/-- LINE_RUN sets run-enable and ends a pause when the head is calibrated, and is refused with E_STATE
otherwise; LINE_PAUSE clears run-enable at once, or at the end of the frame being written. LINE_WAKE in STANDBY
makes the line WAKING with the wake timer started; outside it restarts a running standby timer. The standby
timer's end makes the line STANDBY with the head not calibrated; the wake timer's end starts a LONG calibration.
Each end moves the time base to its moment, and a timer that does not run ends nothing (log 2). -/
def Obligations.RunPauseStandbyAndWakeMoveTheLine : Prop :=
  (∀ (h : Hdr) (s : State), h.port = .line →
    (s.cal.calibrated = true → Served (exec (.lineRun h) s) s
      { s with ctl.runEnable := true, ctl.pausePending := false, due.scan := true, due.attempt := true }
      h 19 .ok []) ∧
    (s.cal.calibrated = false → Refused (exec (.lineRun h) s) s h 19 .eState) ∧
    (s.writing = true → Served (exec (.linePause h) s) s { s with ctl.pausePending := true } h 20 .ok []) ∧
    (s.writing = false → Served (exec (.linePause h) s) s
      { s with ctl.runEnable := false, ctl.pausePending := false } h 20 .ok [])) ∧
  (∀ (h : Hdr) (s : State), h.port = .line →
    (s.ctl.line = .standby → ∃ u : State, Served (exec (.lineWake h) s) s u h 22 .ok [] ∧
      u.ctl = { s.ctl with line := .waking, wakeTimer := some (s.now / 1000) } ∧
      u.lasting = { s with ctl := u.ctl }.lasting) ∧
    (s.ctl.line ≠ .standby → Served (exec (.lineWake h) s) s
      { s with ctl.standbyTimer := s.ctl.standbyTimer.map fun _ => s.now / 1000 } h 22 .ok []) ∧
    (s.ctl.standbyTimer = none → Happens (exec .standbyTimerExpiry s) s s) ∧
    (∀ t e, s.ctl.standbyTimer = some t → e = s.passTo (t + s.ctl.timeout * 60000) →
      ∃ u : State, Happens (exec .standbyTimerExpiry s) s u ∧
        u.now = max s.now ((t + s.ctl.timeout * 60000) * 1000) ∧ u.ctl = { e.ctl with line := .standby } ∧
        u.cal = { e.cal with calibrated := false } ∧
        u.lasting = { e with ctl := u.ctl, cal := u.cal }.lasting) ∧
    (s.ctl.wakeTimer = none → Happens (exec .wakeTimerExpiry s) s s) ∧
    (∀ t e, s.ctl.wakeTimer = some t → e = s.passTo (t + 2000) →
      ∃ u : State, Happens (exec .wakeTimerExpiry s) s u ∧ u.now = max s.now ((t + 2000) * 1000) ∧
        u.ctl = { e.ctl with line := .calibrating, wakeTimer := none } ∧
        u.cal = { e.cal with run := some ⟨.long, u.now / 1000, e.cal.ref⟩, pending := none } ∧
        u.lasting = { e with ctl := u.ctl, cal := u.cal }.lasting))

/-- FAULT_CLEAR removes the named causes whose conditions have gone, starts a clear probe for ENCODER in
FAULT with no frame being written and no probe running, and answers the causes removed and the set after it, as
it stands once the command has come to rest (log 32); an emptied set takes the line out of FAULT. Naming no
cause is refused with E_RANGE, bits 6 and 7 naming none (log 9). -/
def Obligations.FaultClearRemovesGoneCauses : Prop :=
  ∀ (h : Hdr) (b : Byte) (s : State) (f n r left : FaultSet),
    h.port = .line → f = s.ctl.faults → n = faultsOf b →
    r = { paperBreak := f.paperBreak && n.paperBreak &&
            (s.magState .m1 == .ready || s.magState .m2 == .ready)
          jam := false, encoder := false, cutter := f.cutter && n.cutter && s.cutter.homeInput
          head := f.head && n.head && s.cal.calibrated
          rejectFull := f.rejectFull && n.rejectFull && decide (s.sorter.reject < 200) } →
    left = { paperBreak := f.paperBreak && !r.paperBreak, jam := f.jam, encoder := f.encoder
             cutter := f.cutter && !r.cutter, head := f.head && !r.head
             rejectFull := f.rejectFull && !r.rejectFull } →
    (n = FaultSet.none → Refused (exec (.faultClear h b) s) s h 23 .eRange) ∧
    (n ≠ FaultSet.none →
      ¬ (n.encoder = true ∧ f.encoder = true ∧ s.ctl.line = .fault ∧ s.writing = false ∧
          s.transport.probe = none) →
      ∃ u : State, Served (exec (.faultClear h b) s) s u h 23 .ok
          [byte (faultsCode r), byte (faultsCode (State.settle s u).ctl.faults)] ∧
        u.ctl = { s.ctl with
          faults := left
          line := if f ≠ FaultSet.none ∧ left = FaultSet.none ∧ s.ctl.line = .fault then
            (if s.writing then .exposing else .stopped) else s.ctl.line } ∧
        u.lasting = { s with ctl := u.ctl }.lasting) ∧
    (n.encoder = true → f.encoder = true → s.ctl.line = .fault → s.writing = false →
      s.transport.probe = none →
      ∃ u : State, Served (exec (.faultClear h b) s) s u h 23 .accepted
          [byte (faultsCode r), byte (faultsCode (State.settle s u).ctl.faults)] ∧
        u.ctl = { s.ctl with faults := left, lastProbe := .running } ∧
        u.transport.probe = some ⟨s.now / 1000, 0⟩ ∧ u.transport.motor = true ∧
        u.lasting = { s with ctl := u.ctl, transport.probe := u.transport.probe }.lasting)

/-! ### Calibration and test prints (chapter 5) -/

/-- HEAD_CALIBRATE makes a calibration pending, LONG over SHORT; one that preempts a frame being written
aborts that frame, whose print is spoiled and whose record becomes WASTE. Without a calibration pending it is refused while one runs or
a probe runs in FAULT (E_BUSY) and in STANDBY and WAKING (E_STATE). -/
def Obligations.HeadCalibrateMakesACalibrationPending : Prop :=
  ∀ (h : Hdr) (kb pb : Byte) (k : CalKind) (pre : Bool) (s : State),
    h.port = .line → calKindOf kb = some k → yesNo pb = some pre →
    (s.cal.pending ≠ none ∨ s.ctl.line ≠ .calibrating ∧ s.ctl.line ≠ .standby ∧ s.ctl.line ≠ .waking ∧
        (s.ctl.line = .fault → s.transport.probe = none) →
      (pre = false ∨ s.writing = false → Served (exec (.headCalibrate h kb pb) s) s
        { s with cal.pending := some (if s.cal.pending = some .long then .long else k) } h 24
        .accepted []) ∧
      (pre = true → s.writing = true → ∃ u : State,
        Served (exec (.headCalibrate h kb pb) s) s u h 24 .accepted [] ∧
        u.cal = { s.cal with pending := some (if s.cal.pending = some .long then .long else k) } ∧
        u.engine.work = .idle ∧ u.engine.strobe = none ∧ u.due.frameEnd = true ∧
        (∀ c, s.frame? = some c →
          u.book = (s.spoil? (c.target.map fun t => ⟨t.number, t.item⟩)).book) ∧
        u.cutter = { s.cutter with
          web := modAt (fun x => { x with kind := .waste, order := none }) s.cutter.web
            (s.cutter.web.length - 1) })) ∧
    (s.cal.pending = none → s.ctl.line = .calibrating →
      Refused (exec (.headCalibrate h kb pb) s) s h 24 .eBusy) ∧
    (s.cal.pending = none → s.ctl.line = .fault → s.transport.probe ≠ none →
      Refused (exec (.headCalibrate h kb pb) s) s h 24 .eBusy) ∧
    (s.cal.pending = none → (s.ctl.line = .standby ∨ s.ctl.line = .waking) →
      Refused (exec (.headCalibrate h kb pb) s) s h 24 .eState)

/-- A calibration that completes gives every measured element its new trim and dead marker and leaves the
others; a SHORT moves the short pointer on; the head is calibrated when no channel has more than 8 dead
elements within 0..6,099; CAL_DONE or CAL_FAILED with HEAD is raised and the line leaves CALIBRATING. The
readings are the row's operand (log 13); the time base moves to the calibration's end, and the row does nothing
when none runs (log 2). -/
def Obligations.CalibrationCommitsTheTrims : Prop :=
  ∀ (m : Readings) (s : State),
    (s.cal.run = none → Happens (exec (.calibrationComplete m) s) s s) ∧
    (∀ r e, s.cal.run = some r → e = s.passTo (r.start + if r.kind = .long then 400 else 60) →
      ∃ u : State, Happens (exec (.calibrationComplete m) s) s u ∧
      u.now = max s.now ((r.start + if r.kind = .long then 400 else 60) * 1000) ∧ e.cal = s.cal ∧
      (∀ ch x, x < (rgbGet s.cal.trim ch).length →
        (rgbGet u.cal.trim ch)[x]? =
          if r.kind = .long ∨ x % 8 = s.cal.shortPtr then
            some (if readingOf m ch x = 0 then 2047
              else min 2047 (max 512 (roundHalfUp (rgbGet r.ref ch * 1024) (readingOf m ch x))))
          else (rgbGet s.cal.trim ch)[x]?) ∧
      (∀ ch x, x < (rgbGet s.cal.dead ch).length →
        (rgbGet u.cal.dead ch)[x]? =
          if r.kind = .long ∨ x % 8 = s.cal.shortPtr then some (readingOf m ch x == 0)
          else (rgbGet s.cal.dead ch)[x]?) ∧
      u.cal.shortPtr = (if r.kind = .short then (s.cal.shortPtr + 1) % 8 else s.cal.shortPtr) ∧
      u.cal.calibrated = decide (∀ ch ∈ [Channel.r, .g, .b], State.deadCount (rgbGet u.cal.dead ch) ≤ 8) ∧
      u.cal.run = none ∧ u.sched.framesSinceCal = 0 ∧
      u.ctl.faults = (if u.cal.calibrated then e.ctl.faults else { e.ctl.faults with head := true }) ∧
      u.ctl.line = (if u.ctl.faults = FaultSet.none then .stopped else .fault) ∧
      (∀ p, (u.port p).flags = (s.port p).flags ||| if u.cal.calibrated then 64 else 128) ∧
      u.lasting = { e with cal := u.cal, ctl := u.ctl }.lasting)

/-- PATTERN_SET turns the pattern mode on or off outside a frame and EXPOSING; turning it off ends the test
request. In FLUSHING and CHANGEOVER its effect on the scheduler waits for the end of that work: until then an
attempt records the wait cause only, and the first one outside it is made in full (which of the scheduler's
acts wait is log 28). TEST_PRINT in pattern mode takes a test request of 1 to 20 prints, one at a time. -/
def Obligations.PatternAndTestRequests : Prop :=
  (∀ (h : Hdr) (b : Byte) (on : Bool) (s : State), h.port = .line →
    (yesNo b = some on →
      ((s.ctl.line = .exposing ∨ s.writing = true) → Refused (exec (.patternSet h b) s) s h 26 .eState) ∧
      (s.ctl.line ≠ .exposing → s.writing = false →
        (on = s.cal.pattern → Served (exec (.patternSet h b) s) s s h 26 .ok []) ∧
        (on = true → s.cal.pattern = false → Served (exec (.patternSet h b) s) s
          (if s.ctl.line = .flushing ∨ s.ctl.line = .changeover then
            { s with cal.pattern := true, sched.deferred := true } else { s with cal.pattern := true })
          h 26 .ok []) ∧
        (on = false → s.cal.pattern = true → Served (exec (.patternSet h b) s) s
          (if s.ctl.line = .flushing ∨ s.ctl.line = .changeover then
            { s with cal.pattern := false, cal.test := none, sched.deferred := true }
          else { s with cal.pattern := false, cal.test := none, due.scan := true, due.attempt := true })
          h 26 .ok []))) ∧
    (∀ m n, magSlotOf b = some m → 1 ≤ BitVec.toNat n → BitVec.toNat n ≤ 20 →
      (s.cal.pattern = false → Refused (exec (.testPrint h b n) s) s h 27 .eState) ∧
      (s.cal.pattern = true → s.cal.test ≠ none → Refused (exec (.testPrint h b n) s) s h 27 .eBusy) ∧
      (s.cal.pattern = true → s.cal.test = none → Served (exec (.testPrint h b n) s) s
        { s with cal.test := some ⟨m, BitVec.toNat n⟩, due.attempt := true } h 27 .ok []))) ∧
  (∀ s : State, s.writing = false →
    ((s.ctl.line = .flushing ∨ s.ctl.line = .changeover) → s.sched.deferred = true →
      s.attempt = { s with sched.waitCause := s.firstWait }) ∧
    ((s.sched.deferred = false ∨ s.ctl.line ≠ .flushing ∧ s.ctl.line ≠ .changeover) →
      s.ctl.line ≠ .calibrating → s.attempt = { s with sched.deferred := false }.settleAttempt) ∧
    (s.ctl.line = .flushing → s.cutter.web = [] → s.ctl.faults = FaultSet.none →
      s.endFlush.due.attempt = true ∧
      s.endFlush.ctl.line = if s.transport.encoder then .fault else .stopped))

/-! ### Settings (chapters 3 to 10) -/

/-- CAL_REF_SET, BACKPRINT_CONFIG, CUTTER_CONFIG and ROUTE_SET with values in range store them and change
nothing else; CUTTER_CONFIG needs the line STOPPED, STANDBY or FAULT. -/
def Obligations.SettingsRequestsStoreTheirValues : Prop :=
  ∀ (h : Hdr) (s : State), h.port = .line →
    (∀ (ref : Rgb Half) (n : Half), 256 ≤ ref.r.toNat → ref.r.toNat ≤ 4000 → 256 ≤ ref.g.toNat →
      ref.g.toNat ≤ 4000 → 256 ≤ ref.b.toNat → ref.b.toNat ≤ 4000 → n.toNat ≤ 5000 →
      Served (exec (.calRefSet h ref n) s) s
        { s with cal.ref := ⟨ref.r.toNat, ref.g.toNat, ref.b.toNat⟩, sched.shortEvery := n.toNat }
        h 25 .ok []) ∧
    (∀ (b : Byte) (e : Bool) (x y : Half), yesNo b = some e → x.toNat < y.toNat → y.toNat ≤ 12199 →
      Served (exec (.backprintConfig h b x y) s) s
        { s with engine.bpEnable := e, engine.bpStart := x.toNat, engine.bpStop := y.toNat } h 32 .ok []) ∧
    (∀ a : CutterArgs, 4000 ≤ a.markPath.toNat → a.markPath.toNat ≤ 20000 → 500 ≤ a.blank.toNat →
      a.blank.toNat ≤ 3000 → 20 ≤ a.markTol.toNat → a.markTol.toNat ≤ 400 → a.cutOffset.toNat ≤ 2000 →
      5 ≤ a.cutDwell.toNat → a.cutDwell.toNat ≤ 200 →
      ((s.ctl.line = .stopped ∨ s.ctl.line = .standby ∨ s.ctl.line = .fault) →
        Served (exec (.cutterConfig h a) s) s
          { s with cutter.markPath := a.markPath.toNat, cutter.blank := a.blank.toNat
                   cutter.markTol := a.markTol.toNat, cutter.cutOffset := a.cutOffset.toNat
                   cutter.cutDwell := a.cutDwell.toNat } h 37 .ok []) ∧
      (s.ctl.line ≠ .stopped → s.ctl.line ≠ .standby → s.ctl.line ≠ .fault →
        Refused (exec (.cutterConfig h a) s) s h 37 .eState)) ∧
    (∀ (a b : WindowArg) (x y : Bank), bankOf a.bank = some x → bankOf b.bank = some y →
      a.base.toNat ≤ a.limit.toNat → b.base.toNat ≤ b.limit.toNat →
      Served (exec (.routeSet h a b) s) s
        { s with sorter.window1 := ⟨a.base.toNat, a.limit.toNat, x⟩
                 sorter.window2 := ⟨b.base.toNat, b.limit.toNat, y⟩, due.scan := true } h 39 .ok [])

/-- PATH_CONFIG, STANDBY_CONFIG and PROCESSOR_CONFIG with values in range store them; a flush or standby
timer already past its new length ends at once, a watchdog past its new expiry expires at once, and the
accumulator is converted by the new unit; that a pump pulse the conversion makes pending starts before the
watchdog is looked at is the model's choice (log 38). PATH_CONFIG needs the line STOPPED, STANDBY or FAULT. -/
def Obligations.TimedSettingsActAtOnce : Prop :=
  ∀ (h : Hdr) (s : State), h.port = .line →
    (∀ (c : Half) (v d : Byte), 4000 ≤ c.toNat → c.toNat ≤ 40000 → 20 ≤ v.toNat → v.toNat ≤ 150 →
      1 ≤ d.toNat → d.toNat ≤ 120 →
      ((s.ctl.line = .stopped ∨ s.ctl.line = .standby ∨ s.ctl.line = .fault) → ∀ u : State,
        u = { s with transport.countsPerRev := c.toNat, transport.speedNom := v.toNat
                     sched.flushDelay := d.toNat } →
        Served (exec (.pathConfig h c v d) s) s
          (match s.sched.flushTimer with
            | some t => if s.flushRuns && decide (t + d.toNat * 1000 ≤ s.now / 1000) then u.startFlush else u
            | none => u) h 36 .ok []) ∧
      (s.ctl.line ≠ .stopped → s.ctl.line ≠ .standby → s.ctl.line ≠ .fault →
        Refused (exec (.pathConfig h c v d) s) s h 36 .eState)) ∧
    (∀ (a : StandbyArgs) (x y z : Bool) (u : State), a.timeout.toNat ≤ 120 → yesNo a.commit = some x →
      yesNo a.insertion = some y → yesNo a.reprint = some z →
      u = { s with ctl.timeout := a.timeout.toNat, ctl.wakeCommit := x, ctl.wakeInsertion := y
                   ctl.wakeReprint := z } →
      Served (exec (.standbyConfig h a) s) s
        (match s.ctl.standbyTimer with
          | some t => if u.standbyRuns && decide (t + a.timeout.toNat * 60000 ≤ s.now / 1000) then
              u.enterStandby else u
          | none => u) h 40 .ok []) ∧
    (∀ (a : ProcessorArgs) (m : Monitor), 1000 ≤ a.budget.toNat → a.budget.toNat ≤ 60000 →
      100 ≤ a.replUnit.toNat → a.replUnit.toNat ≤ 10000 → 10 ≤ a.replPulse.toNat →
      a.replPulse.toNat ≤ 2000 → 60 ≤ a.transit.toNat → a.transit.toNat ≤ 900 → 5 ≤ a.tol.toNat →
      a.tol.toNat ≤ 120 →
      m = { s.monitor with
        budget := a.budget.toNat, replUnit := a.replUnit.toNat, replPulse := a.replPulse.toNat
        transit := a.transit.toNat, tol := a.tol.toNat
        pulses := min 255 (s.monitor.pulses + s.monitor.accumulator / a.replUnit.toNat)
        accumulator := s.monitor.accumulator % a.replUnit.toNat } →
      Served (exec (.processorConfig h a) s) s ({ s with monitor := m }.startPump.checkWatchdog) h 38
        .ok [])

/-- CORRECTION_SET replaces one surface of the staged corrections, CORRECTION_HOLD sets the hold; waiting
corrections reach the live set at once when the line is not EXPOSING and the hold is off. CURVE_LOAD
replaces one channel of one surface's curves, DRIVE_LOAD one channel's drive table, while no frame is
written and the line is not EXPOSING, FLUSHING or CHANGEOVER; codes that fall are refused with E_TABLE. -/
def Obligations.ExposureSettingsAreStored : Prop :=
  (∀ (h : Hdr) (s : State), h.port = .line →
      (∀ (b : Byte) (f : Surface) (v : Rgb CorrArg) (c : Rgb Corr) (st : PerSurface (Rgb Corr)),
        surfaceOf b = some f → rgbCorrOf v = some c → st = surfaceMod (fun _ => c) s.engine.staged f →
        Served (exec (.correctionSet h b v) s) s
          (if s.ctl.line = .exposing ∨ s.engine.hold = true then
            { s with engine.staged := st, engine.waiting := true }
          else { s with engine.staged := st, engine.live := st, engine.waiting := false }) h 28 .ok []) ∧
      (∀ (b : Byte) (on : Bool), yesNo b = some on → Served (exec (.correctionHold h b) s) s
        (if s.ctl.line = .exposing ∨ on = true ∨ s.engine.waiting = false then { s with engine.hold := on }
          else { s with engine.hold := on, engine.live := s.engine.staged, engine.waiting := false })
        h 29 .ok [])) ∧
  (∀ (h : Hdr) (s : State), h.port = .line →
      (∀ (fb cb : Byte) (f : Surface) (c : Channel) (ls : List Byte), surfaceOf fb = some f →
        channelOf cb = some c → ls.length = 256 → (∀ x ∈ ls, x.toNat ≤ 127) →
        (s.tablesOpen = true → Served (exec (.curveLoad h fb cb ls) s) s
          { s with engine.curves :=
              surfaceMod (fun v => rgbMod (fun _ => ls.map BitVec.toNat) v c) s.engine.curves f } h 30 .ok []) ∧
        (s.tablesOpen = false → Refused (exec (.curveLoad h fb cb ls) s) s h 30 .eState)) ∧
      (∀ (cb : Byte) (c : Channel) (ls : List Half), channelOf cb = some c → ls.length = 128 →
        (∀ x ∈ ls, x.toNat ≤ 1023) →
        (s.tablesOpen = true → nonDecreasing (ls.map BitVec.toNat) = true →
          Served (exec (.driveLoad h cb ls) s) s
            { s with engine.drive := rgbMod (fun _ => ls.map BitVec.toNat) s.engine.drive c } h 31 .ok []) ∧
        (s.tablesOpen = true → nonDecreasing (ls.map BitVec.toNat) = false →
          Refused (exec (.driveLoad h cb ls) s) s h 31 .eTable) ∧
        (s.tablesOpen = false → Refused (exec (.driveLoad h cb ls) s) s h 31 .eState)))

/-! ### Magazines (6.2) -/

/-- MAGAZINE_PRESENT sets a SOFTWARE slot's presence, MAGAZINE_CONFIG the detect modes, reset enables and
lengths; a presence that changes is an insertion or a removal, with all settings in force, M1's before M2's
(log 36). ROLL_SET gives a roll's remaining length and is an event of the PAPER release. -/
def Obligations.MagazineRequestsActOnTheSlots : Prop :=
  ∀ (h : Hdr) (s : State), h.port = .line →
    (∀ (b c : Byte) (m : MagSlot) (p : Bool), magSlotOf b = some m → yesNo c = some p →
      ((s.mag m).software = true → Served (exec (.magazinePresent h b c) s) s
        ((s.modMag (fun g => { g with softPresent := p }) m).presenceChange m (s.mag m).present) h 34
        .ok []) ∧
      ((s.mag m).software = false → Refused (exec (.magazinePresent h b c) s) s h 34 .eState)) ∧
    (∀ (a : MagConfigArgs) (x1 r1 x2 r2 : Bool), yesNo a.mode1 = some x1 → yesNo a.reset1 = some r1 →
      yesNo a.mode2 = some x2 → yesNo a.reset2 = some r2 → 500 ≤ a.lowMm.toNat →
      a.lowMm.toNat ≤ 20000 → 50 ≤ a.endLead.toNat → a.endLead.toNat ≤ 500 →
      Served (exec (.magazineConfig h a) s) s
        (({ s with
          transport.m1 := { s.transport.m1 with
            software := x1, resetEnable := r1
            softPresent := if x1 && !s.transport.m1.software then s.transport.m1.present
              else s.transport.m1.softPresent }
          transport.m2 := { s.transport.m2 with
            software := x2, resetEnable := r2
            softPresent := if x2 && !s.transport.m2.software then s.transport.m2.present
              else s.transport.m2.softPresent }
          transport.lowMm := a.lowMm.toNat
          transport.endLead := a.endLead.toNat }.presenceChange .m1 (s.mag .m1).present).presenceChange
            .m2 (s.mag .m2).present) h 33 .ok []) ∧
    (∀ (b : Byte) (w : Wide) (m : MagSlot) (r : Remaining), magSlotOf b = some m →
      remainingOf w = some r →
      (s.magState m ≠ .absent → s.magState m ≠ .unusable →
        ¬ (s.transport.threaded = some m ∧ (s.mag m).endSeen = true) →
        Served (exec (.rollSet h b w) s) s
          (s.modMag (fun g => { g with remaining := r, endSeen := false, carry := 0 }) m).releasePaper.dueAttempt
          h 35 .ok []) ∧
      (s.magState m = .absent ∨ s.magState m = .unusable ∨
          s.transport.threaded = some m ∧ (s.mag m).endSeen = true →
        Refused (exec (.rollSet h b w) s) s h 35 .eState))

/-- A change of presence: a magazine that comes is inserted, its strip read and decoded, and wakes a
standing-by line when insertions wake; one that goes is removed; the threaded one's removal breaks the web:
the aborted frame's print and every print on the web are spoiled, the web list is dropped, last cut and diverter
are reset (in a changeover too, log 42), nothing is being written, no slot is threaded, PAPER_BREAK is in the
fault set, and a list that held a record makes a frame start attempt, outside a changeover. The removal of a
changeover's incoming magazine ends the changeover: the slot threaded stays so, the request is cleared, and the
ACTIVE order is HELD for PAPER. A slot that comes READY from ABSENT
or UNUSABLE takes PAPER from every order and makes an attempt, which in FLUSHING and CHANGEOVER waits for the
end of that work (log 28). -/
def Obligations.PresenceChangesInsertRemoveOrBreak : Prop :=
  (∀ (s : State) (m : MagSlot) (was : Bool),
    ((s.mag m).present = was → s.presenceChange m was = s) ∧
    ((s.mag m).present = true → was = false →
      (s.presenceChange m was).mag m = (s.mag m).insert ∧
      (s.ctl.line = .standby → s.ctl.wakeInsertion = true → (s.presenceChange m was).ctl =
        { s.ctl with line := .waking, wakeTimer := some (s.now / 1000) }) ∧
      (s.ctl.line ≠ .standby ∨ s.ctl.wakeInsertion = false → s.presenceChange m was = s.modMag Mag.insert m)) ∧
    ((s.mag m).present = false → was = true → s.transport.threaded ≠ some m →
      (s.presenceChange m was).mag m = (s.mag m).remove ∧
      (s.transport.changeover.map (·.incoming) ≠ some m →
        s.presenceChange m was = s.modMag Mag.remove m) ∧
      (∀ c t, s.transport.changeover = some c → c.incoming = m → t = s.presenceChange m was →
        t.transport.changeover = none ∧ t.transport.threaded = s.transport.threaded ∧ t.sched.request = none ∧
        t.ctl = { s.ctl with line := if s.ctl.faults = FaultSet.none then .stopped else .fault } ∧
        t.cutter = s.cutter ∧ t.due.scan = true ∧ t.due.attempt = true ∧ t.book.queue = s.book.queue ∧
        (∀ i, s.current = some i → (s.orderAt i).holds.paper = false →
          t.orderAt i = { s.orderAt i with holds := (s.orderAt i).holds.add .paper, state := .held } ∧
          ∀ p, (t.port p).flags = (s.port p).flags ||| 2) ∧
        (∀ j, s.current ≠ some j → t.orderAt j = s.orderAt j))) ∧
    ((s.mag m).present = false → was = true → s.transport.threaded = some m →
      (s.presenceChange m was).mag m = (s.mag m).remove ∧
      (s.presenceChange m was).transport.threaded = none ∧ (s.presenceChange m was).cutter.web = [] ∧
      (s.presenceChange m was).cutter.lastCut = none ∧ (s.presenceChange m was).engine.work = .idle ∧
      (s.presenceChange m was).ctl.faults.paperBreak = true ∧
      (s.presenceChange m was).cutter.diverter = .chute ∧
      (s.presenceChange m was).book = (s.lostPrints.foldl State.spoil s).book ∧
      (s.cutter.web ≠ [] ∨ s.ctl.line = .flushing → (s.presenceChange m was).due.attempt = true))) ∧
  (∀ (b s : State) (m n : MagSlot), m ≠ n → (b.magState m = .absent ∨ b.magState m = .unusable) →
    s.magState m = .ready → s.magState n = b.magState n →
    ((s.ctl.line = .flushing ∨ s.ctl.line = .changeover) →
      State.paperEvents b s = { s.releasePaper with sched.deferred := true }) ∧
    (s.ctl.line ≠ .flushing → s.ctl.line ≠ .changeover →
      State.paperEvents b s = { s.releasePaper with due.attempt := true }))

/-! ### Transport events (6.1) -/

/-- A quadrature transition moves the position by one count, up to 2^48 − 1 and down to 0, restarts the
no-count time, and in a clear probe counts towards its 40, the 40th within 200 ms ending it in its own step
(log 22); under dead reckoning it moves nothing. Dead reckoning moves the position to the base and the counts of
the running time: by the µs of an advance (its operand, log 12), and wherever a timed row moves the time base
(`passTo`, log 2), which leaves all but the paper's and the line's state alone. The roll loses exactly the paper
that passes: with a known remaining length, 40 counts a millimetre, the length less the carry falls by the
counts passed; no count is taken twice; without a known length only the carry runs. -/
def Obligations.CountsMovePositionAndRoll : Prop :=
  (∀ (f : Bool) (us : Nat) (s c : State) (p : Nat),
      c = { s with transport.lastCount := s.now / 1000
                   transport.pulseUs := if f then s.transport.pulseUs else none } →
      p = (if f then min 281474976710655 (s.transport.position + 1) else s.transport.position - 1) →
      (s.transport.probe = none → s.transport.deadReckoning ≠ none →
        Happens (exec (.encoderTransition f) s) s c) ∧
      (s.transport.probe = none → s.transport.deadReckoning = none →
        Happens (exec (.encoderTransition f) s) s (c.moveTo p) ∧
        (State.settle s (c.moveTo p)).transport.position = p) ∧
      (∀ q, s.transport.probe = some q → ∃ u : State, Happens (exec (.encoderTransition f) s) s u ∧
        u.transport.position = p ∧
        (q.counts + 1 < 40 ∨ q.start + 200 < s.now / 1000 →
          u.transport.probe = some ⟨q.start, q.counts + 1⟩ ∧ u.ctl.lastProbe = s.ctl.lastProbe) ∧
        (40 ≤ q.counts + 1 → s.now / 1000 ≤ q.start + 200 → u.transport.probe = none ∧
          u.transport.encoder = false ∧ u.transport.deadReckoning = none ∧
          u.ctl.lastProbe = .passed ∧ u.ctl.faults.encoder = false)) ∧
      (s.reckons = false → Happens (exec (.deadReckoningAdvance us) s) s s) ∧
      (∀ d, s.reckons = true → s.transport.deadReckoning = some d → ∀ r : Nat,
        r = min 281474976710655 (d.base + d.speed * (d.runUs + us) / 1000000) →
        Happens (exec (.deadReckoningAdvance us) s) s ((s.elapse us).moveTo r) ∧
        (State.settle s ((s.elapse us).moveTo r)).transport.position = r ∧
        (State.settle s ((s.elapse us).moveTo r)).now = s.now + us)) ∧
  (∀ (s : State) (t n : Nat),
      (s.reckons = false → s.passTo t = { s with now := max s.now (t * 1000) }) ∧
      (∀ d, s.reckons = true → s.transport.deadReckoning = some d → s.now < t * 1000 →
        n = t * 1000 - s.now →
        s.passTo t = (s.elapse n).moveTo
          (min 281474976710655 (d.base + d.speed * (d.runUs + n) / 1000000)) ∧
        (s.passTo t).transport.position =
          min 281474976710655 (d.base + d.speed * (d.runUs + n) / 1000000)) ∧
      s.passTo t = { s with
        now := max s.now (t * 1000), due := (s.passTo t).due, engine := (s.passTo t).engine
        transport := (s.passTo t).transport, cutter := (s.passTo t).cutter
        monitor := (s.passTo t).monitor, ctl := (s.passTo t).ctl }) ∧
  (∀ (m : Mag) (pos n : Nat), m.endSeen = false →
      (pos ≤ m.consumedTo → m.consume pos = m) ∧
      (m.consumedTo < pos → (m.consume pos).consumedTo = pos ∧ (m.consume pos).carry < 40 ∧
        (m.remaining = .unknown → (m.consume pos).remaining = .unknown) ∧
        (m.remaining = .mm n → m.carry + (pos - m.consumedTo) ≤ n * 40 → ∃ k,
          (m.consume pos).remaining = .mm k ∧
          n * 40 + (m.consume pos).carry = k * 40 + m.carry + (pos - m.consumedTo)) ∧
        (m.remaining = .mm n → n * 40 < m.carry + (pos - m.consumedTo) →
          (m.consume pos).remaining = .mm 0)))

/-- An index pulse within 4 counts of a revolution ends a run of mismatches; the first such match of a motor
run forms no speed, a later one forms it from the pulse before it, when that was of the same run with no reverse
count between; one outside is a mismatch, and the second in succession, or 50 ms without a count, brings the
ENCODER condition: dead reckoning from the position at the speed in use, and every web record inspected. A pulse
under the condition is not taken, and a mismatching pulse is a partner too (log 33); COUNTS_PER_REV in use is
that of the pulse (log 34); the speed of an interval of 0 µs is a free value (log 15); the timeout moves the
time base to its moment (log 2). -/
def Obligations.EncoderHealthIsWatched : Prop :=
  ∀ s : State,
    (s.transport.encoder = true → Happens (exec .encoderIndexPulse s) s s ∧
      Happens (exec .encoderNoCountTimeout s) s s) ∧
    (s.transport.encoder = false → ∀ ref, s.transport.indexRef = ref →
      ∃ u : State, Happens (exec .encoderIndexPulse s) s u ∧
        u.transport.indexRef = some s.transport.position ∧
        u.transport.revInUse = s.transport.countsPerRev ∧
        u.transport.pulseUs = (if s.transport.motor then some s.now else none) ∧
        u.transport.position = s.transport.position ∧
        (ref = none → u.transport.mismatches = s.transport.mismatches ∧ u.transport.encoder = false ∧
          u.transport.matched = s.transport.matched ∧ u.transport.speed = s.transport.speed) ∧
        (∀ r, ref = some r → distance s.transport.position r ≤ s.transport.countsPerRev + 4 →
          s.transport.countsPerRev ≤ distance s.transport.position r + 4 →
          u.transport.mismatches = 0 ∧ u.transport.encoder = false ∧
          u.transport.matched = s.transport.motor ∧
          (∀ t, s.transport.pulseUs = some t → s.transport.motor = true → s.transport.matched = true →
            t < s.now →
            u.transport.speed = some (roundHalfUp (s.transport.countsPerRev * 1000000) (s.now - t))) ∧
          (∀ t, s.transport.pulseUs = some t → s.transport.motor = true → s.transport.matched = true →
            s.now = t → u.transport.speed = some (Config.speedAtZeroInterval s.freeCount)) ∧
          (s.transport.pulseUs = none ∨ s.transport.motor = false ∨ s.transport.matched = false →
            u.transport.speed = s.transport.speed)) ∧
        (∀ r, ref = some r → (s.transport.countsPerRev + 4 < distance s.transport.position r ∨
            distance s.transport.position r + 4 < s.transport.countsPerRev) →
          u.transport.mismatches = s.transport.mismatches + 1 ∧
          u.transport.matched = s.transport.matched ∧ u.transport.speed = s.transport.speed ∧
          (s.transport.mismatches = 0 → u.transport.encoder = false) ∧
          (1 ≤ s.transport.mismatches → u.transport.encoder = true ∧
            u.transport.deadReckoning = some ⟨s.transport.position, s.transport.speedInUse, 0⟩ ∧
            u.cutter.web = s.cutter.web.map fun x => { x with inspect := true }))) ∧
    (s.transport.motor = false → Happens (exec .encoderNoCountTimeout s) s s) ∧
    (s.transport.motor = true → s.transport.encoder = false → ∀ e,
      e = s.passTo (s.transport.lastCount + 50) →
      ∃ u : State, Happens (exec .encoderNoCountTimeout s) s u ∧
        u.now = max s.now ((s.transport.lastCount + 50) * 1000) ∧ u.transport.encoder = true ∧
        u.transport.deadReckoning = some ⟨e.transport.position, e.transport.speedInUse, 0⟩ ∧
        u.cutter.web = e.cutter.web.map fun x => { x with inspect := true })

/-- A clear probe that succeeds within its 200 ms removes the ENCODER condition and its cause, with the
result PASSED; one that fails leaves them, with the result FAILED, and dead reckoning goes on from the
position. CLEAR_PROBE_SUCCESS is taken at its word, whatever the count, and both rows do nothing without a probe
(log 22); the failure moves the time base to 200 ms from the start (log 2). -/
def Obligations.ClearProbeEndsPassedOrFailed : Prop :=
  ∀ s : State,
    (s.transport.probe = none → Happens (exec .clearProbeSuccess s) s s ∧
      Happens (exec .clearProbeFailure s) s s) ∧
    (∀ q, s.transport.probe = some q →
      (q.start + 200 < s.now / 1000 → Happens (exec .clearProbeSuccess s) s s) ∧
      (s.now / 1000 ≤ q.start + 200 → ∃ u : State, Happens (exec .clearProbeSuccess s) s u ∧
        u.transport.probe = none ∧ u.transport.encoder = false ∧ u.transport.deadReckoning = none ∧
        u.transport.indexRef = none ∧ u.transport.mismatches = 0 ∧ u.ctl.lastProbe = .passed ∧
        u.ctl.faults = { s.ctl.faults with encoder := false } ∧
        u.lasting = { s with transport := u.transport, ctl := u.ctl }.lasting) ∧
      ∃ u : State, Happens (exec .clearProbeFailure s) s u ∧ u.transport.probe = none ∧
        u.now = max s.now ((q.start + 200) * 1000) ∧ u.ctl = { s.ctl with lastProbe := .failed } ∧
        u.transport.encoder = s.transport.encoder ∧
        (∀ d, u.transport.deadReckoning = some d → d.base = s.transport.position ∧ d.runUs = 0) ∧
        u.lasting = { s with now := u.now, transport := u.transport, ctl := u.ctl }.lasting)

/-- A slot's detect input and strip contacts are taken as they come; 20 ms after a change the presence
follows the input (DETECT_DEBOUNCED moves the time base there, and does nothing when there is nothing to take,
log 2); a level condition that this time has brought sets its flags before a removal can end it. A paper end
taken on the threaded slot leaves END_LEAD on the roll; a frame that needs more is aborted, its print spoiled,
and becomes WASTE. -/
def Obligations.MagazineInputsAreTaken : Prop :=
  ∀ (m : MagSlot) (b : Bool) (strip : Half) (s : State) (g : Mag), g = s.mag m →
    Happens (exec (.detectInputChange m b strip) s) s
      (s.modMag (fun _ => { g with
        strip := strip, detect := b
        detectSince := if g.detect = b then g.detectSince else s.now / 1000 }) m) ∧
    (g.detect = g.debounced → Happens (exec (.detectDebounced m) s) s s) ∧
    (g.detect ≠ g.debounced → Happens (exec (.detectDebounced m) s) s
      (((s.passTo (g.detectSince + 20)).syncFlags.modMag (fun x => { x with debounced := x.detect })
        m).presenceChange m g.present)) ∧
    (b = false ∨ g.endInput = true ∨ s.transport.threaded ≠ some m ∨ g.endSeen = true →
      Happens (exec (.paperEnd m b) s) s (s.modMag (fun x => { x with endInput := b }) m)) ∧
    (b = true → g.endInput = false → s.transport.threaded = some m → g.endSeen = false →
      ∃ u : State, Happens (exec (.paperEnd m b) s) s u ∧
        u.mag m = { g with
          endInput := true, remaining := .mm s.transport.endLead, endSeen := true, carry := 0 } ∧
        (∀ c, s.engine.work = .frame c →
          (s.transport.endLead * 40 < c.start + c.span - (c.start + 2 * c.next) →
            u.engine.work = .idle ∧
            u.book = (s.spoil? (c.target.map fun t => ⟨t.number, t.item⟩)).book ∧ u.cutter.web =
              modAt (fun x => { x with kind := .waste, order := none }) s.cutter.web
                (s.cutter.web.length - 1)) ∧
          (c.start + c.span - (c.start + 2 * c.next) ≤ s.transport.endLead * 40 →
            u.engine = s.engine ∧ u.cutter = s.cutter ∧ u.book = s.book)) ∧
        (s.writing = false → u.engine = s.engine ∧ u.cutter = s.cutter ∧ u.book = s.book))

/-- A changeover completes 8 s after its start with the incoming slot threaded from the position, 40 mm of
its roll used, and the line STOPPED or FAULT, a scan and an attempt event; the outgoing slot is no longer
threaded, and its entry into READY or LOW takes PAPER from every order, also where it was LOW before (R125); the
flush timer's end starts a flush with a closing gap behind a last record that is not CLOSING. Each end moves the
time base to its moment, and a changeover or timer that does not run ends nothing (log 2). -/
def Obligations.ChangeoverAndFlushTimerEnd : Prop :=
  ∀ s : State,
    (s.transport.changeover = none → Happens (exec .changeoverComplete s) s s) ∧
    (∀ c m e g, s.transport.changeover = some c → c.incoming = m → e = s.passTo (c.start + 8000) →
      e.mag m = g →
      ∃ u : State, Happens (exec .changeoverComplete s) s u ∧
        u.now = max s.now ((c.start + 8000) * 1000) ∧ u.transport.changeover = none ∧
        u.sched.request = none ∧ u.ctl.line = (if e.ctl.faults = FaultSet.none then .stopped else .fault) ∧
        (g.endInput = false ∨ g.endSeen = true → u.mag m =
          { g with consumedTo := e.transport.position, remaining := g.remaining.take 40 }) ∧
        (g.endInput = true → g.endSeen = false → u.mag m =
          { g with consumedTo := e.transport.position, remaining := .mm e.transport.endLead
                   endSeen := true, carry := 0 }) ∧
        (g.endInput = false → g.endSeen = false → u.transport.threaded = some m) ∧
        u.due.scan = true ∧ u.due.attempt = true ∧
        (∀ n, e.transport.threaded = some n → n ≠ m → e.writing = false →
          u.transport.threaded ≠ some n ∧
          u.book = if u.magState n = .ready ∨ u.magState n = .low then e.releasePaper.book else e.book) ∧
        (e.transport.threaded = none ∨ e.transport.threaded = some m → e.writing = false →
          u.book = e.book)) ∧
    (s.sched.flushTimer = none → Happens (exec .flushTimerExpiry s) s s) ∧
    (∀ t e, s.sched.flushTimer = some t → e = s.passTo (t + s.sched.flushDelay * 1000) →
      ∃ u : State, Happens (exec .flushTimerExpiry s) s u ∧
      u.now = max s.now ((t + s.sched.flushDelay * 1000) * 1000) ∧ u.ctl = { e.ctl with line := .flushing } ∧
      (∀ x, e.cutter.web.getLast? = some x → x.kind = .closing → u.cutter = e.cutter) ∧
      (∀ x, e.cutter.web.getLast? = some x → x.kind ≠ .closing → u.cutter = { e.cutter with
        web := e.cutter.web ++ [e.cutter.newRecord .closing none
          (max e.transport.position (x.start + x.span)) 48 0] }))

/-! ### The cutter (chapter 7) -/

/-- The mark sensor opens and closes a candidate; a mark within the tolerance of the oldest record without
one, and not blanked, is taken with its cut one CUT_OFFSET behind it; one that is missed is cut from its
expected place, it and the record before it inspected. -/
def Obligations.MarksAreTakenOrMissed : Prop :=
  ∀ (s : State) (c : Cutter) (pre post : List WebRecord) (x : WebRecord) (edge : Nat),
    (s.cutter.markInput = true → Happens (exec .markSensorRise s) s s) ∧
    (s.cutter.markInput = false → Happens (exec .markSensorRise s) s
      { s with cutter.markInput := true
               cutter.candidate := some (s.cutter.candidate.getD s.transport.position) }) ∧
    Happens (exec .markSensorFall s) s { s with cutter.markInput := false, cutter.candidate := none } ∧
    (c.web = pre ++ x :: post → (∀ y ∈ pre, y.mark ≠ .unseen) → x.mark = .unseen →
      (c.blanked edge = false → edge ≤ x.expected + c.markTol → x.expected ≤ edge + c.markTol →
        c.judge edge = { c with
          web := pre ++ { x with mark := .taken edge, cut := some (edge + c.cutOffset) } :: post
          lastMark := some ⟨edge, (edge : Int) - x.expected⟩ }) ∧
      (c.blanked edge = true ∨ x.expected + c.markTol < edge ∨ edge + c.markTol < x.expected →
        c.judge edge = c) ∧
      (∀ pre' y, pre = pre' ++ [y] → c.miss = { c with
        web := pre' ++ { y with inspect := true } ::
          { x with mark := .missed, cut := some (x.expected + c.cutOffset), inspect := true } :: post }) ∧
      (pre = [] → c.miss = { c with
        web := { x with mark := .missed, cut := some (x.expected + c.cutOffset), inspect := true } :: post }))

/-- The blade: after its dwell it returns, or is IN when the home input is asserted then (log 6); 100 ms of
return make it STUCK with CUTTER; the home input's assertion brings it IN from RETURNING and STUCK; a due cut may
then fire. The timed rows move the time base to their moments, and do nothing for a blade in another state
(log 2). -/
def Obligations.BladeFollowsItsInputs : Prop :=
  ∀ (s : State) (b : Bool),
    (∀ t d e, s.cutter.blade = .down t d → e = s.passTo (t + d) →
      (e.cutter.homeInput = false → ∃ u : State, Happens (exec .bladeDwellEnd s) s u ∧
        u.now = max s.now ((t + d) * 1000) ∧
        u.cutter = { e.cutter with blade := .returning (u.now / 1000) }) ∧
      (e.cutter.homeInput = true → Happens (exec .bladeDwellEnd s) s
        { e with cutter.blade := .isIn }.tryCut)) ∧
    ((∀ t d, s.cutter.blade ≠ .down t d) → Happens (exec .bladeDwellEnd s) s s) ∧
    (∀ t e, s.cutter.blade = .returning t → e = s.passTo (t + 100) →
      ∃ u : State, Happens (exec .bladeReturnTimeout s) s u ∧
      u.now = max s.now ((t + 100) * 1000) ∧ u.cutter = { e.cutter with blade := .stuck } ∧
      u.ctl.faults = { e.ctl.faults with cutter := true }) ∧
    ((∀ t, s.cutter.blade ≠ .returning t) → Happens (exec .bladeReturnTimeout s) s s) ∧
    (b = true → (s.cutter.blade = .stuck ∨ ∃ t, s.cutter.blade = .returning t) →
      Happens (exec (.bladeHomeAsserted b) s) s
        { s with cutter.homeInput := true, cutter.blade := .isIn }.tryCut) ∧
    (b = false ∨ s.cutter.blade = .isIn ∨ (∃ t d, s.cutter.blade = .down t d) →
      Happens (exec (.bladeHomeAsserted b) s) s { s with cutter.homeInput := b })

/-- A due cut with the blade IN and home fires: it lies at the position, the blade is DOWN and off its home
switch (the home input released by the fire is log 6), and the open piece ahead of it leaves the list, a PRINT,
INDEX or TEST piece to the processor as a sheet due one transit later, any other to the chute. Without home the
blade is STUCK with CUTTER; a cut not due, or with the blade out, does nothing. -/
def Obligations.CutFiresWhenDue : Prop :=
  ∀ s : State,
    (s.cutter.cutDue s.transport.position = false ∨ s.cutter.blade ≠ .isIn → s.tryCut = s) ∧
    (s.cutter.cutDue s.transport.position = true → s.cutter.blade = .isIn →
      (s.cutter.homeInput = false → s.tryCut.cutter = { s.cutter with blade := .stuck } ∧
        s.tryCut.ctl.faults = { s.ctl.faults with cutter := true } ∧ s.tryCut.monitor = s.monitor) ∧
      (s.cutter.homeInput = true →
        s.tryCut.cutter.lastCut = some s.transport.position ∧
        s.tryCut.cutter.blade = .down (s.now / 1000) s.cutter.cutDwell ∧
        s.tryCut.cutter.homeInput = false ∧
        (∀ x rest k, s.cutter.web = x :: rest → x.leading = true → x.kind.sheet = some k →
          s.tryCut.monitor.sheets = s.monitor.sheets ++ [⟨k, x.order, s.now / 1000,
            s.now / 1000 + s.monitor.transit * 1000, x.area, x.inspect⟩] ∧
          s.tryCut.cutter.diverter = .processor ∧ s.tryCut.cutter.web = openAtCut rest) ∧
        (∀ x rest, s.cutter.web = x :: rest → x.leading = true → x.kind.sheet = none →
          s.tryCut.monitor = s.monitor ∧ s.tryCut.cutter.diverter = .chute ∧
          s.tryCut.cutter.web = openAtCut rest) ∧
        (∀ x rest, s.cutter.web = x :: rest → x.leading = false →
          s.tryCut.monitor = s.monitor ∧ s.tryCut.cutter.diverter = .chute ∧
          s.tryCut.cutter.web = openAtCut s.cutter.web)))

/-! ### Processor and sorter (chapters 8 and 9) -/

/-- BIN_EMPTIED 0 sets the reject count to 0, of a PURGE bin makes it FREE, of a FREE bin changes nothing;
any other bin is refused with E_STATE, a number above 24 with E_RANGE. -/
def Obligations.BinEmptiedFreesPurgedBins : Prop :=
  ∀ (h : Hdr) (b : Byte) (s : State), h.port = .line →
    (24 < b.toNat → Refused (exec (.binEmptied h b) s) s h 41 .eRange) ∧
    (b.toNat = 0 → Served (exec (.binEmptied h b) s) s { s with sorter.reject := 0 } h 41 .ok []) ∧
    (1 ≤ b.toNat → b.toNat ≤ 24 →
      ((s.sorter.bin b.toNat).state = .purge → Served (exec (.binEmptied h b) s) s
        { s with sorter.bins := modAt (fun _ => Bin.free) s.sorter.bins (b.toNat - 1), due.scan := true }
        h 41 .ok []) ∧
      ((s.sorter.bin b.toNat).state = .free → Served (exec (.binEmptied h b) s) s s h 41 .ok []) ∧
      ((s.sorter.bin b.toNat).state ≠ .purge → (s.sorter.bin b.toNat).state ≠ .free →
        Refused (exec (.binEmptied h b) s) s h 41 .eState))

/-- The watchdog's end loses the head sheet, stops the processor and raises JAM; it moves the time base to the
expiry, and does nothing when the watchdog is not armed (log 2). JAM_CLEAR loses n more sheets, each print of
them spoiled, adds the stopped
duration to the due times of the rest, releases the processor and removes JAM; it answers n and the duration;
when the new head is overdue even so, the watchdog armed for it expires at once: it is lost too, and processor
stop and JAM are back. -/
def Obligations.JamsStopTheProcessorUntilCleared : Prop :=
  ∀ (h : Hdr) (n : Half) (s : State), h.port = .line →
    (s.monitor.stop ≠ none ∨ s.monitor.sheets = [] → Happens (exec .transitWatchdogExpiry s) s s) ∧
    (∀ x rest e, s.monitor.stop = none → s.monitor.sheets = x :: rest →
      e = s.passTo (x.due + s.monitor.tol * 1000) →
      ∃ (more : List Sheet) (u : State), e.monitor.sheets = x :: (rest ++ more) ∧
        Happens (exec .transitWatchdogExpiry s) s u ∧
        u.now = max s.now ((x.due + s.monitor.tol * 1000) * 1000) ∧ u.monitor.sheets = rest ++ more ∧
        u.monitor.stop = some (u.now / 1000) ∧ u.ctl.faults = { e.ctl.faults with jam := true } ∧
        (x.order = none → u.book = s.book) ∧
        (∀ k, x.order = some k → u.book = (({ e with
          monitor.sheets := rest ++ more } : State).spoil k).book)) ∧
    (600 < n.toNat → Refused (exec (.jamClear h n) s) s h 43 .eRange) ∧
    (n.toNat ≤ 600 → s.monitor.stop = none → Refused (exec (.jamClear h n) s) s h 43 .eState) ∧
    (∀ since, n.toNat ≤ 600 → s.monitor.stop = some since → s.monitor.sheets.length < n.toNat →
      Refused (exec (.jamClear h n) s) s h 43 .eRange) ∧
    (∀ since d, n.toNat ≤ 600 → s.monitor.stop = some since → n.toNat ≤ s.monitor.sheets.length →
      d = s.now / 1000 - since →
      ∃ u : State, Served (exec (.jamClear h n) s) s u h 43 .ok (le16 n.toNat ++ le32 d) ∧
        ((∀ x, (s.monitor.sheets.drop n.toNat).head? = some x →
            s.now / 1000 < x.due + d + s.monitor.tol * 1000) →
          u.monitor.sheets = (s.monitor.sheets.drop n.toNat).map (fun x => { x with due := x.due + d }) ∧
          u.monitor.stop = none ∧ u.ctl.faults = { s.ctl.faults with jam := false } ∧
          u.book = (((s.monitor.sheets.take n.toNat).filterMap (·.order)).foldl State.spoil s).book) ∧
        (∀ x rest, s.monitor.sheets.drop n.toNat = x :: rest →
          x.due + d + s.monitor.tol * 1000 ≤ s.now / 1000 →
          u.monitor.sheets = rest.map (fun x => { x with due := x.due + d }) ∧
          u.monitor.stop = some (s.now / 1000) ∧ u.ctl.faults = { s.ctl.faults with jam := true } ∧
          u.book = (((s.monitor.sheets.take (n.toNat + 1)).filterMap (·.order)).foldl State.spoil s).book))

/-- A spoil takes a print out of flight: back to pending with the spoil count raised, at 4 with the hold
reason FAULT; to skipped for a VOID order, whose record goes FREE with its last print in flight. A frame
start moves one print from pending to in flight, marks the order started, adds the piece's area to the load
window, appends a web record behind the last, and leaves the line EXPOSING with no changeover request; with
the order's last pending print the order is DRAINING. -/
def Obligations.FrameStartsAndSpoilsMoveOnePrint : Prop :=
  (∀ (s : State) (x : OrderItem) (i : Nat) (o : Order) (c : Counts),
      s.findLive x.number = some i → o = s.orderAt i → o.countsAt x.item = some c →
      (o.state ≠ .void →
        ((s.spoil x).orderAt i).countsAt x.item =
          some { c with w := c.w - 1, p := c.p + 1, spoil := min 4 (c.spoil + 1) } ∧
        ((s.spoil x).orderAt i).holds =
          (if 3 ≤ c.spoil then { o.holds with fault := true } else o.holds) ∧
        (c.spoil < 3 → ((s.spoil x).orderAt i).state =
          if o.state = .draining then .queued else o.state)) ∧
      (o.state = .void → ∀ r, r = o.modCounts x.item (fun n => { n with w := n.w - 1, s := n.s + 1 }) →
        (s.spoil x).orderAt i = if r.sum (·.w) = 0 then Order.free else r)) ∧
  (∀ (s t : State) (m : MagSlot) (g : Geometry) (x : Target) (o : Order) (c : Counts),
      o = s.orderAt x.record → o.state = .active → o.countsAt x.item = some c → 0 < c.p →
      t = s.startFrame m g (some x) →
      (t.orderAt x.record).countsAt x.item = some { c with p := c.p - 1, w := c.w + 1 } ∧
      (t.orderAt x.record).started = true ∧
      (t.orderAt x.record).state = (if o.sum (·.p) = 1 then .draining else .active) ∧
      (∀ j, j ≠ x.record → t.orderAt j = s.orderAt j) ∧
      t.monitor = s.monitor.addArea g.area ∧ t.ctl = { s.ctl with line := .exposing } ∧
      t.sched.request = none ∧ t.sched.waitCause = .none ∧
      (∃ r : WebRecord, t.cutter = { s.cutter with web := s.cutter.web ++ [r] } ∧
        r.start = s.cutter.nextStart s.transport.position ∧ r.span = 48 + 40 * g.along ∧
        r.area = g.area ∧ r.order = some ⟨x.number, x.item⟩ ∧ r.mark = .unseen ∧ r.leading = false))

/-- The sorter entrance: a change of the input restarts its 5 ms; held asserted for 5 ms on a clear sensor
it is an arrival, held released it clears the sensor (each row moves the time base to its 5 ms, and does nothing
otherwise, log 2). An arrival takes the head sheet to the sorter and arms the watchdog anew; with no sheet listed
it is a stray for the reject bin. The sorter delivers a print of a live order into the first bin of its list with
room, and counts it delivered; a DRAINING order left with nothing in flight and nothing pending is READY, with
ORDER_READY raised and its bins COMPLETE; a VOID order's print is rejected and skipped; a test print is rejected. A sheet
that finds no bin with room, or no live order (neither arises, R157), is rejected, the first skipped as well (log
40). The reject count rises to 999 at most, and 200 or more raises REJECT_FULL. An inspected sheet delivered, or
of a TEST, raises INSPECT on every port. -/
def Obligations.ArrivalsAreSorted : Prop :=
  (∀ (s e : State) (b : Bool), e = s.passTo (s.monitor.inputSince + 5) →
      (s.monitor.input = b → Happens (exec (.sorterEntranceInputChange b) s) s s) ∧
      (s.monitor.input ≠ b → Happens (exec (.sorterEntranceInputChange b) s) s
        { s with monitor.input := b, monitor.inputSince := s.now / 1000 }) ∧
      (s.monitor.input = false ∨ s.monitor.sensor = true → Happens (exec .sheetArrival s) s s) ∧
      (s.monitor.input = true → s.monitor.sensor = false →
        (e.monitor.sheets = [] → Happens (exec .sheetArrival s) s
          { e with monitor.sensor := true }.rejectSheet) ∧
        (∀ x rest, e.monitor.sheets = x :: rest → Happens (exec .sheetArrival s) s
          (({ e with monitor.sensor := true, monitor.sheets := rest, due.attempt := true }.sortSheet
            x).checkWatchdog))) ∧
      (s.monitor.input = true ∨ s.monitor.sensor = false → Happens (exec .entranceSensorClear s) s s) ∧
      (s.monitor.input = false → s.monitor.sensor = true →
        Happens (exec .entranceSensorClear s) s { e with monitor.sensor := false })) ∧
  (∀ (s : State) (x : Sheet) (k : OrderItem) (i : Nat) (o : Order) (c : Counts),
      s.rejectSheet.sorter = { s.sorter with
        reject := min 999 (s.sorter.reject + 1), select := 0, gate := some (s.now / 1000) } ∧
      s.rejectSheet.ctl.faults = (if 199 ≤ s.sorter.reject then
        { s.ctl.faults with rejectFull := true } else s.ctl.faults) ∧
      (x.order = none → (x.inspect = false → s.sortSheet x = s.rejectSheet) ∧
        (x.inspect = true → s.sortSheet x = s.rejectSheet.raise .inspect)) ∧
      (x.order = some k → s.findLive k.number = none → s.sortSheet x = s.rejectSheet) ∧
      (x.order = some k → s.findLive k.number = some i → o = s.orderAt i → o.countsAt k.item = some c →
        (o.state = .void → ∀ r, r = o.modCounts k.item (fun n => { n with w := n.w - 1, s := n.s + 1 }) →
          (s.sortSheet x).orderAt i = (if r.sum (·.w) = 0 then Order.free else r) ∧
          (s.sortSheet x).sorter.reject = min 999 (s.sorter.reject + 1)) ∧
        (∀ (b : Nat) (r : Order) (last : Bool), o.state ≠ .void →
          o.bins.find? (fun b => decide ((s.sorter.bin b).count < 100)) = some b →
          1 ≤ b → b ≤ s.sorter.bins.length →
          r = o.modCounts k.item (fun n => { n with w := n.w - 1, d := n.d + 1 }) →
          last = decide (o.state = .draining ∧ r.sum (·.w) = 0 ∧ r.sum (·.p) = 0) →
          ((s.sortSheet x).sorter.bin b).count = (s.sorter.bin b).count + 1 ∧
          ((s.sortSheet x).sorter.bin b).state = (if last then .complete else .filling) ∧
          (last = true → ∀ j ∈ o.bins, 1 ≤ j → j ≤ s.sorter.bins.length →
            ((s.sortSheet x).sorter.bin j).state = .complete) ∧
          (s.sortSheet x).sorter.select = b ∧ (s.sortSheet x).sorter.gate = some (s.now / 1000) ∧
          ((s.sortSheet x).orderAt i).countsAt k.item = some { c with w := c.w - 1, d := c.d + 1 } ∧
          (s.sortSheet x).orderAt i = { r with
            inspect := x.inspect || o.inspect, state := if last then .ready else o.state } ∧
          (∀ p, ((s.sortSheet x).port p).flags = (s.port p).flags |||
            (if x.inspect then 256 else 0) ||| if last then 1 else 0)) ∧
        (o.state ≠ .void → o.bins.find? (fun b => decide ((s.sorter.bin b).count < 100)) = none →
          (s.sortSheet x).sorter.reject = min 999 (s.sorter.reject + 1) ∧
          (s.sortSheet x).sorter.select = 0 ∧ (s.sortSheet x).sorter.gate = some (s.now / 1000) ∧
          ((s.sortSheet x).orderAt i).countsAt k.item = some { c with w := c.w - 1, s := c.s + 1 } ∧
          ((s.sortSheet x).orderAt i).inspect = o.inspect)))

/-- The processor's timers: the bucket moves on each second and is cleared, a pump pulse is followed by a
gap and by the next pending pulse, the bin gate goes off after 100 ms. Each end moves the time base to its
moment, and a timer that does not run ends nothing (log 2). -/
def Obligations.ProcessorTimersRun : Prop :=
  ∀ s : State,
    (∀ e, e = s.passTo ((s.monitor.second + 1) * 1000) → ∃ u : State, Happens (exec .bucketAdvance s) s u ∧
      u.now = max s.now ((s.monitor.second + 1) * 1000000) ∧ u.monitor = { e.monitor with
        second := s.monitor.second + 1
        buckets := modAt (fun _ => 0) e.monitor.buckets ((s.monitor.second + 1) % 60) } ∧
      u.due.attempt = true) ∧
    (∀ t n e, s.monitor.pump = .pulse t n → e = s.passTo (t + n) →
      ∃ u : State, Happens (exec .pumpPulseEnd s) s u ∧
      u.now = max s.now ((t + n) * 1000) ∧ u.monitor = { e.monitor with
        pulses := e.monitor.pulses - 1, pump := .gap (u.now / 1000) e.monitor.replPulse }) ∧
    ((∀ t n, s.monitor.pump ≠ .pulse t n) → Happens (exec .pumpPulseEnd s) s s) ∧
    (∀ t n e, s.monitor.pump = .gap t n → e = s.passTo (t + n) →
      ∃ u : State, Happens (exec .pumpGapEnd s) s u ∧
      u.now = max s.now ((t + n) * 1000) ∧ u.monitor = { e.monitor with
        pump := if 0 < e.monitor.pulses ∧ e.monitor.stop = none then
          .pulse (u.now / 1000) e.monitor.replPulse else .idle }) ∧
    ((∀ t n, s.monitor.pump ≠ .gap t n) → Happens (exec .pumpGapEnd s) s s) ∧
    (∀ t, s.sorter.gate = some t → Happens (exec .binGateOff s) s
      { s.passTo (t + 100) with sorter.gate := none }) ∧
    (s.sorter.gate = none → Happens (exec .binGateOff s) s s)

/-! ### Frames (chapters 3 and 4) -/

/-- A scan runs only on a scan event with the boundary open, run-enable set, no fault, pattern mode off, the line
STOPPED or EXPOSING at a frame's end and no calibration pending. It walks the print queue: an order whose choice
is PAPER is held for it, one whose bins cannot be reserved is left, and the first other one is selected: ACTIVE
with its bins, out of the queue, queue blocked ended, an attempt made. With none selected the queue is blocked
while it is not empty. A reservation takes the lowest FREE bins of the order's bank up to ceil(S / 100), at least
one, in all, or none when too few are free; routing windows 1, then 2, name the bank, else it is A. -/
def Obligations.ScansSelectAndReserve : Prop :=
  (∀ s : State,
    (s.mayScan = true ↔ s.current = none ∧ s.writing = false ∧ s.ctl.runEnable = true ∧
      s.ctl.faults = FaultSet.none ∧ s.cal.pattern = false ∧
      (s.ctl.line = .stopped ∨ s.ctl.line = .exposing) ∧ s.cal.pending = none) ∧
    (s.due.scan = false → s.runScan = s) ∧
    (s.due.scan = true → s.mayScan = false → s.runScan = { s with due.scan := false }) ∧
    (s.due.scan = true → s.mayScan = true →
      s.runScan = { s with due.scan := false }.scanWalk s.book.queue)) ∧
  (∀ (s u : State) (pre : List Nat) (walked : Nat → Order), BookSound s →
    (∀ j ∈ pre, s.choose (s.orderAt j) = .paper ∨ s.reserve j = none) →
    (∀ j, walked j =
      if j ∈ pre ∧ s.choose (s.orderAt j) = .paper ∧ (s.orderAt j).holds.paper = false then
        { s.orderAt j with state := .held, holds := { (s.orderAt j).holds with paper := true } }
      else s.orderAt j) →
    u = s.scanWalk s.book.queue →
    (∀ i post t, s.book.queue = pre ++ i :: post → s.choose (s.orderAt i) ≠ .paper →
      s.reserve i = some t →
      u.orderAt i = { t.orderAt i with state := .active } ∧ (∀ j, j ≠ i → u.orderAt j = walked j) ∧
      u.sorter = t.sorter ∧ u.sched.queueBlocked = false ∧ u.due = { s.due with attempt := true } ∧
      u.book.queue = s.book.queue.filter (fun j => (u.orderAt j).state == .queued)) ∧
    (s.book.queue = pre → (∀ j, u.orderAt j = walked j) ∧ u.sorter = s.sorter ∧
      u.sched.queueBlocked = !u.book.queue.isEmpty ∧ u.due = s.due ∧
      u.book.queue = s.book.queue.filter (fun j => (u.orderAt j).state == .queued))) ∧
  (∀ (s : State) (i need lack : Nat) (o : Order) (free : List Nat), i < s.book.records.length →
    s.sorter.bins.length = 24 → o = s.orderAt i →
    need = max 1 ((o.sum (fun n => n.d + n.w + n.p) + 99) / 100) → lack = need - o.bins.length →
    free = (List.range' 1 24).filter (fun b => (s.sorter.bin b).state == .free &&
      (if b ≤ 16 then Bank.a else Bank.b) == s.sorter.bankFor o.number) →
    (free.length < lack → s.reserve i = none) ∧
    (lack ≤ free.length → ∃ t, s.reserve i = some t ∧
      t.orderAt i = { o with bins := o.bins ++ free.take lack } ∧
      (∀ j, j ≠ i → t.orderAt j = s.orderAt j) ∧
      (∀ b, t.sorter.bin b = if b ∈ free.take lack then ⟨.reserved, some o.number, 0⟩
        else s.sorter.bin b) ∧
      t = { s with book := t.book, sorter.bins := t.sorter.bins } ∧
      t.book = { s.book with records := t.book.records })) ∧
  (∀ (t : Sorter) (n : Nat) (covers : Window → Prop), 1 ≤ n →
    (∀ w, covers w ↔ w.limit ≠ 0 ∧ w.base ≤ n ∧ n ≤ w.limit) →
    (covers t.window1 → t.bankFor n = t.window1.bank) ∧
    (¬ covers t.window1 → covers t.window2 → t.bankFor n = t.window2.bank) ∧
    (¬ covers t.window1 → ¬ covers t.window2 → t.bankFor n = .a))

/-- The frame choice is made among the items with a pending print, in item order, or the index when no item has
one: the first that the threaded magazine suits is a frame, else the first that another slot suits is a
changeover to that slot, M1 before M2, else PAPER. A slot suits when it is READY, ACTIVE or LOW, of the frame's
width and surface, with an unknown length or the length and 100 mm more. -/
def Obligations.FrameChoiceFollowsThePaper : Prop :=
  (∀ (o : Order) (k : Nat), k ∈ o.candidates ↔
    (1 ≤ k ∧ ∃ x, o.items[k - 1]? = some x ∧ 0 < x.n.p) ∨
    (k = 0 ∧ (∀ x ∈ o.items, x.n.p = 0) ∧ ∃ x, o.index = some x ∧ 0 < x.n.p)) ∧
  (∀ o : Order, o.candidates.Pairwise (· < ·)) ∧
  (∀ (s : State) (o : Order) (pre post : List Nat) (k : Nat) (m : MagSlot),
    o.candidates = pre ++ k :: post →
    (s.transport.threaded = some m → s.itemSuits o m k = true → (∀ j ∈ pre, s.itemSuits o m j = false) →
      s.choose o = .frame k) ∧
    ((∀ j ∈ o.candidates, ∀ t, s.transport.threaded = some t → s.itemSuits o t j = false) →
      (∀ j ∈ pre, ∀ t, s.transport.threaded ≠ some t → s.itemSuits o t j = false) →
      s.transport.threaded ≠ some m → s.itemSuits o m k = true →
      (m = .m2 → s.transport.threaded ≠ some .m1 → s.itemSuits o .m1 k = false) →
      s.choose o = .change m)) ∧
  (∀ (s : State) (o : Order), (∀ j ∈ o.candidates, ∀ t, s.itemSuits o t j = false) → s.choose o = .paper) ∧
  (∀ (s : State) (o : Order) (m : MagSlot) (k : Nat), s.itemSuits o m k = true ↔
    ∃ g c, o.frameGeom k = some g ∧ (s.mag m).ctx = some c ∧
      (s.magState m = .ready ∨ s.magState m = .active ∨ s.magState m = .low) ∧ c.width = g.across ∧
      (g.surface = .any ∨ g.surface = .of c.surface) ∧
      ((s.mag m).remaining = .unknown ∨ ∃ n, (s.mag m).remaining = .mm n ∧ g.along + 100 ≤ n))

/-- Line k of a frame or closing gap is written when the position reaches start + 2k: a move of the position
writes the lines reached and not yet written, in order, each once with its codes, and nothing before line 0's
point. The last line ends the frame: engine IDLE, back-print strobe removed, the end reported; the 24th ends a
closing gap. A frame's end makes an ACTIVE order with a hold reason HELD, carries out a pause, and is a scan and
an attempt event. -/
def Obligations.LinesAreWrittenOnceAndEndTheFrame : Prop :=
  (∀ (s t : State) (c : FrameContext) (n : Nat), s.engine.work = .frame c → t = s.writeLines →
    n = (if s.transport.position < c.start then 0
      else min (24 + c.lines) ((s.transport.position - c.start) / 2 + 1)) →
    (n ≤ c.next → t = s) ∧
    (c.next < n →
      t.engine.strobed = s.engine.strobed ++
        (List.range' c.next (n - c.next)).map (fun k => ⟨k, frameLine s c k⟩) ∧
      t.engine.presented = .codes (frameLine s c (n - 1)) ∧
      (n < 24 + c.lines → t.engine.work = .frame { c with next := n } ∧ t.due = s.due) ∧
      (n = 24 + c.lines → t.engine.work = .idle ∧ t.engine.strobe = none ∧
        t.due = { s.due with frameEnd := true }) ∧
      t = { s with engine := t.engine, due := t.due })) ∧
  (∀ (s t : State) (start next n : Nat), s.engine.work = .closing start next → t = s.writeLines →
    n = (if s.transport.position < start then 0 else min 24 ((s.transport.position - start) / 2 + 1)) →
    (n ≤ next → t = s) ∧
    (next < n →
      t.engine.strobed = s.engine.strobed ++ (List.range' next (n - next)).map (fun k => ⟨k, gapLine k⟩) ∧
      t.engine.presented = .codes (gapLine (n - 1)) ∧
      t.engine.work = (if n = 24 then .idle else .closing start n) ∧ t = { s with engine := t.engine })) ∧
  (∀ s : State, (s.engine.work = .idle → s.writeLines = s) ∧
    (s.due.frameEnd = false → s.frameEndSteps = s) ∧
    (s.due.frameEnd = true →
      s.frameEndSteps.due = { scan := true, attempt := true, frameEnd := false } ∧
      s.frameEndSteps.ctl = (if s.ctl.pausePending then
        { s.ctl with runEnable := false, pausePending := false } else s.ctl) ∧
      ∀ i, s.frameEndSteps.orderAt i =
        if s.current = some i ∧ (s.orderAt i).holds.isEmpty = false then
          { s.orderAt i with state := .held } else s.orderAt i))

/-- Every drive code of a frame is 0, a code of 8 to 1,015, or 1,023; 1,023 stands in the mark band of gap
lines 8 to 15, elements 0 to 127, and nowhere else. At rest the head presents code 0 for every element while the
engine is IDLE, but in a calibration, and (log 14) before line 0 of a frame or closing gap. The back-print
strobe is asserted, with the order number and the frame sequence, exactly from image line BP_START to image line
BP_END of a PRINT frame with the enable on; otherwise strobe, number and sequence are 0. -/
def Obligations.DriveCodesStayInRange : Prop :=
  (∀ (s : State) (c : FrameContext) (k x : Nat) (ch : Channel), x < 6144 →
    (k < 24 → (rgbGet (frameLine s c k) ch)[x]? =
      some (if 8 ≤ k ∧ k ≤ 15 ∧ x < 128 then 1023 else 0)) ∧
    (24 ≤ k → ∃ v, (rgbGet (frameLine s c k) ch)[x]? = some v ∧ (v = 0 ∨ 8 ≤ v ∧ v ≤ 1015))) ∧
  (∀ (s : State) (ch : Channel) (x : Nat), AtRest s → x < 6144 → s.ctl.line ≠ .calibrating →
    (s.engine.work = .idle ∨ (∃ c, s.engine.work = .frame c ∧ c.next = 0) ∨
      (∃ start, s.engine.work = .closing start 0)) → s.driveCode ch x = some 0) ∧
  (∀ (s t : State) (c : FrameContext) (n : Nat), s.engine.work = .frame c → t = s.writeLines →
    n = (if s.transport.position < c.start then 0
      else min (24 + c.lines) ((s.transport.position - c.start) / 2 + 1)) → c.next < n →
    (∀ x, c.target = some x → c.kind = .print → c.bpEnable = true → 24 + c.bpStart < n →
      n ≤ 24 + c.bpStop → n < 24 + c.lines → t.backPrint = (true, x.number, c.bpSeq)) ∧
    (c.target = none ∨ c.kind ≠ .print ∨ c.bpEnable = false ∨ n ≤ 24 + c.bpStart ∨ 24 + c.bpStop < n ∨
      n = 24 + c.lines → t.backPrint = (false, 0, 0))) ∧
  (∀ s : State, s.writing = true → s.abortFrame.backPrint = (false, 0, 0))

/-- No frame starts but with run-enable set, an empty fault set and no ENCODER condition: whenever a command
leaves a frame being written that is not the one written before it (one that starts as the one before it ends,
R63, included), they hold, and the line is EXPOSING. -/
def Obligations.FramesStartOnlyWhenAllowed : Prop :=
  ∀ (c : Instr) (s t : State) (f : FrameContext), exec c s = .next t → t.engine.work = .frame f →
    (∀ g, s.engine.work = .frame g → f ≠ { g with next := f.next }) →
    t.ctl.runEnable = true ∧ t.ctl.faults = FaultSet.none ∧ t.transport.encoder = false ∧
      t.ctl.line = .exposing
end

