-- ==== Sys2Proof/Laws/Lasting.lean ====
section
/-! SUPPORT. `settle` and everything it calls leave `State.lasting` alone: one lemma for each operation,
ending in `settle_lasting`. -/

namespace Sys2Proof.Machine

/-! ### Lists -/

theorem map_modAt_of_eq {α β : Type} (g : α → β) (f : α → α) (h : ∀ x, g (f x) = g x) :
    ∀ (l : List α) (i : Nat), (modAt f l i).map g = l.map g
  | [], _ => rfl
  | x :: xs, 0 => by simp [modAt, h]
  | x :: xs, i + 1 => by simp [modAt, map_modAt_of_eq g f h xs i]

theorem map_modAt_at {α β : Type} (g : α → β) (f : α → α) :
    ∀ (l : List α) (i : Nat), (∀ x, l[i]? = some x → g (f x) = g x) → (modAt f l i).map g = l.map g
  | [], _, _ => rfl
  | x :: xs, 0, h => by simp [modAt, h x (by simp)]
  | x :: xs, i + 1, h => by
    simp only [modAt, List.map_cons, map_modAt_at g f xs i fun y hy => h y (by simpa using hy)]

namespace State

/-! ### Order records -/

theorem modOrder_lasting_at (s : State) (i : Nat) (f : Order → Order)
    (h : (f (s.orderAt i)).lasting = (s.orderAt i).lasting) : (s.modOrder i f).lasting = s.lasting := by
  have := map_modAt_at Order.lasting f s.book.records i fun x hx => by
    have : s.orderAt i = x := by simp [orderAt, hx]
    rw [← this, h]
  simp only [lasting, modOrder, this]

theorem modOrder_lasting (s : State) (i : Nat) (f : Order → Order)
    (h : ∀ o, (f o).lasting = o.lasting) : (s.modOrder i f).lasting = s.lasting := by
  simp only [lasting, modOrder, map_modAt_of_eq _ f h]

/-- A change of an image slot that keeps its pages. -/
theorem map_pages_modAt (f : ImageSlot → ImageSlot) (h : ∀ x, (f x).pages = x.pages) (l : List ImageSlot)
    (i : Nat) : (modAt f l i).map (·.pages) = l.map (·.pages) := map_modAt_of_eq _ f h l i

@[simp] theorem dueScan_lasting (s : State) : s.dueScan.lasting = s.lasting := rfl
@[simp] theorem dueAttempt_lasting (s : State) : s.dueAttempt.lasting = s.lasting := rfl
@[simp] theorem enqueue_lasting (s : State) (i : Nat) : (s.enqueue i).lasting = s.lasting := rfl
@[simp] theorem dequeue_lasting (s : State) (i : Nat) : (s.dequeue i).lasting = s.lasting := rfl
@[simp] theorem raise_lasting (s : State) (f : Flag) : (s.raise f).lasting = s.lasting := rfl
@[simp] theorem completeBins_lasting (s : State) (bs : List Nat) :
    (s.completeBins bs).lasting = s.lasting := rfl
@[simp] theorem waitFor_lasting (s : State) (w : WaitCause) : (s.waitFor w).lasting = s.lasting := rfl
@[simp] theorem defer_lasting (s : State) : s.defer.lasting = s.lasting := rfl
@[simp] theorem clearRequest_lasting (s : State) : s.clearRequest.lasting = s.lasting := rfl
@[simp] theorem syncFlags_lasting (s : State) : s.syncFlags.lasting = s.lasting := rfl

@[simp] theorem leaveState_lasting (s : State) (i : Nat) (st : OrderState) :
    (s.leaveState i st).lasting = s.lasting := by cases st <;> rfl

@[simp] theorem enterState_lasting (s : State) (i : Nat) (st : OrderState) :
    (s.enterState i st).lasting = s.lasting := by cases st <;> rfl

@[simp] theorem setOrderState_lasting (s : State) (i : Nat) (st : OrderState) :
    (s.setOrderState i st).lasting = s.lasting := by
  simp only [setOrderState, enterState_lasting, leaveState_lasting]
  exact modOrder_lasting s i _ fun _ => rfl

@[simp] theorem addHold_paper_lasting (s : State) (i : Nat) :
    (s.addHold i .paper).lasting = s.lasting := by
  have h := modOrder_lasting s i (fun o => { o with holds := o.holds.add .paper }) fun _ => rfl
  simp only [addHold]
  split
  · rfl
  · split
    · rw [setOrderState_lasting, h]
    · exact h

@[simp] theorem leaveHeld_lasting (s : State) (i : Nat) : (s.leaveHeld i).lasting = s.lasting := by
  simp only [leaveHeld]
  split
  · exact setOrderState_lasting s i _
  · rfl

@[simp] theorem releasePaper1_lasting (s : State) (i : Nat) :
    (s.releasePaper1 i).lasting = s.lasting := by
  simp only [releasePaper1]
  split
  · rw [leaveHeld_lasting]
    exact modOrder_lasting s i _ fun _ => rfl
  · rfl

theorem foldl_releasePaper1_lasting (l : List Nat) :
    ∀ s : State, (l.foldl releasePaper1 s).lasting = s.lasting := by
  induction l with
  | nil => intro s; rfl
  | cons i l ih => intro s; rw [List.foldl_cons, ih, releasePaper1_lasting]

@[simp] theorem releasePaper_lasting (s : State) : s.releasePaper.lasting = s.lasting :=
  foldl_releasePaper1_lasting _ s

/-- Giving a slot up releases PAPER, or does nothing (R125). -/
theorem giveUp_cases (s : State) (o : Option MagSlot) : s.giveUp o = s ∨ s.giveUp o = s.releasePaper := by
  simp only [giveUp]
  split
  · exact Or.inr rfl
  · exact Or.inr rfl
  · exact Or.inl rfl

@[simp] theorem giveUp_lasting (s : State) (o : Option MagSlot) : (s.giveUp o).lasting = s.lasting := by
  rcases giveUp_cases s o with h | h
  · rw [h]
  · rw [h, releasePaper_lasting]

/-! ### Line, motor, faults -/

@[simp] theorem syncMotor_lasting (s : State) : s.syncMotor.lasting = s.lasting := by
  simp only [syncMotor]
  split
  · rfl
  · split <;> rfl

@[simp] theorem copyCorrections_lasting (s : State) : s.copyCorrections.lasting = s.lasting := by
  simp only [copyCorrections]
  split <;> rfl

@[simp] theorem setLine_lasting (s : State) (l : LineState) : (s.setLine l).lasting = s.lasting := by
  simp only [setLine, syncMotor_lasting]
  split
  · exact copyCorrections_lasting s
  · rfl

@[simp] theorem causeOnLine_lasting (s : State) : s.causeOnLine.lasting = s.lasting := by
  simp only [causeOnLine]
  split
  · exact setLine_lasting s _
  · exact setLine_lasting s _
  · rw [dueAttempt_lasting, dueScan_lasting, setLine_lasting]; split <;> rfl
  · rfl

@[simp] theorem addCause_encoder_lasting (s : State) : (s.addCause .encoder).lasting = s.lasting := by
  simp only [addCause]
  split
  · rfl
  · rw [causeOnLine_lasting]; rfl

@[simp] theorem startCalibration_lasting (s : State) (k : CalKind) :
    (s.startCalibration k).lasting = s.lasting := by
  simp only [startCalibration, setLine_lasting]; rfl

@[simp] theorem mergePending_lasting (s : State) (k : CalKind) :
    (s.mergePending k).lasting = s.lasting := rfl

/-! ### Engine -/

@[simp] theorem endFrame_lasting (s : State) : s.endFrame.lasting = s.lasting := rfl

@[simp] theorem writeLines_lasting (s : State) : s.writeLines.lasting = s.lasting := by
  simp only [writeLines]
  split
  · rfl
  · split
    · rfl
    · split <;> rfl
  · split <;> rfl

/-! ### Scheduler -/

theorem reserve_lasting (s t : State) (i : Nat) (h : s.reserve i = some t) :
    t.lasting = s.lasting := by
  simp only [reserve] at h
  split at h
  · exact absurd h (by simp)
  · cases h
    exact modOrder_lasting _ i _ fun _ => rfl

@[simp] theorem select_lasting (s : State) (i : Nat) : (s.select i).lasting = s.lasting := by
  have h := setOrderState_lasting s i .active
  simp only [select, dueAttempt_lasting]
  exact h

@[simp] theorem scanWalk_lasting (l : List Nat) :
    ∀ s : State, (s.scanWalk l).lasting = s.lasting := by
  induction l with
  | nil => intro s; rfl
  | cons i l ih =>
    intro s
    simp only [scanWalk]
    split
    · rw [ih, addHold_paper_lasting]
    · split
      next t h => rw [select_lasting, reserve_lasting s t i h]
      next => exact ih s

@[simp] theorem runScan_lasting (s : State) : s.runScan.lasting = s.lasting := by
  simp only [runScan]
  split
  · split
    · rw [scanWalk_lasting]; rfl
    · rfl
  · rfl

@[simp] theorem startFlush_lasting (s : State) : s.startFlush.lasting = s.lasting := by
  simp only [startFlush]
  split
  · exact setLine_lasting s _
  · rw [writeLines_lasting]; exact setLine_lasting s .flushing

@[simp] theorem requestChange_lasting (s : State) (m : MagSlot) :
    (s.requestChange m).lasting = s.lasting := by
  simp only [requestChange]
  split
  · simp only [startChangeover, setLine_lasting]; rfl
  · rw [startFlush_lasting, setLine_lasting]; rfl

@[simp] theorem tryChange_lasting (s : State) (m : MagSlot) : (s.tryChange m).lasting = s.lasting := by
  simp only [tryChange]
  split
  · rw [requestChange_lasting, waitFor_lasting]
  · exact waitFor_lasting s _

@[simp] theorem countFrame_lasting (s : State) : s.countFrame.lasting = s.lasting := by
  simp only [countFrame]
  split <;> rfl

/-- A frame start's counter move keeps p + w where a print is pending. -/
theorem startCounts_lasting (n : Counts) (h : 0 < n.p) :
    Counts.lasting { n with p := n.p - 1, w := n.w + 1 } = n.lasting := by
  simp only [Counts.lasting, Counts.mk.injEq, true_and, and_true]
  omega

theorem modCounts_lasting (o : Order) (item : Nat) (f : Counts → Counts)
    (h : ∀ n, o.countsAt item = some n → (f n).lasting = n.lasting) :
    (o.modCounts item f).lasting = o.lasting := by
  unfold Order.countsAt at h
  unfold Order.modCounts
  split
  · next hi =>
    rw [if_pos hi] at h
    cases hx : o.index with
    | none => simp [Order.lasting, hx]
    | some x => simp [Order.lasting, hx, h x.n (by simp [hx])]
  · next hi =>
    rw [if_neg hi] at h
    simp only [Order.lasting]
    rw [map_modAt_at _ _ _ _ fun x hx => by simp [h x.n (by simp [hx])]]

/-- The print of a frame start is pending. -/
def pends (s : State) (t : Target) : Prop :=
  ∀ n, (s.orderAt t.record).countsAt t.item = some n → 0 < n.p

theorem startPrint_lasting (s : State) (t : Target) (ht : s.pends t) :
    (s.startPrint t).lasting = s.lasting := by
  have h : ({ (s.orderAt t.record).modCounts t.item fun n => { n with p := n.p - 1, w := n.w + 1 } with
      started := true } : Order).lasting = (s.orderAt t.record).lasting := by
    have := modCounts_lasting (s.orderAt t.record) t.item
      (fun n => { n with p := n.p - 1, w := n.w + 1 }) fun n hn => startCounts_lasting n (ht n hn)
    rw [← this]; rfl
  have hm := modOrder_lasting_at s t.record (fun o =>
    { o.modCounts t.item fun n => { n with p := n.p - 1, w := n.w + 1 } with started := true }) h
  simp only [startPrint]
  split
  · rw [setOrderState_lasting]; exact hm
  · exact hm

theorem startTarget_lasting (s : State) (t : Option Target) (ht : ∀ x, t = some x → s.pends x) :
    (s.startTarget t).lasting = s.lasting := by
  cases t with
  | none => rfl
  | some t =>
    have h := startPrint_lasting s t (ht t rfl)
    simp only [startTarget]
    split
    · exact h
    · rw [← h]; rfl

theorem copyCorrections_records (s : State) : s.copyCorrections.book = s.book := by
  simp only [copyCorrections]; split <;> rfl

theorem startFrame_lasting (s : State) (m : MagSlot) (g : Geometry) (t : Option Target)
    (ht : ∀ x, t = some x → s.pends x) : (s.startFrame m g t).lasting = s.lasting := by
  simp only [startFrame, writeLines_lasting, countFrame_lasting, setLine_lasting]
  have h := startTarget_lasting s.copyCorrections t fun x hx => by
    simpa only [pends, orderAt, copyCorrections_records] using ht x hx
  rw [copyCorrections_lasting] at h
  rw [← h]; rfl

theorem admit_lasting (s : State) (m : MagSlot) (g : Geometry) (t : Option Target)
    (ht : ∀ x, t = some x → s.pends x) : (s.startIfClear m g t).lasting = s.lasting := by
  simp only [startIfClear]
  split
  · exact startFrame_lasting s m g t ht
  · exact waitFor_lasting s _

theorem candidates_pend (o : Order) (item : Nat) (h : item ∈ o.candidates) :
    ∀ n, o.countsAt item = some n → 0 < n.p := by
  intro n hn
  unfold Order.candidates at h
  split at h
  · split at h
    · next hc =>
      simp only [List.mem_singleton] at h
      subst h
      simpa [hn] using hc
    · simp at h
  · simp only [Order.pendingItems, List.mem_filter, hn, Option.any_some, decide_eq_true_eq] at h
    exact h.2

@[simp] theorem attemptTest_lasting (s : State) : s.attemptTest.lasting = s.lasting := by
  simp only [attemptTest]
  split
  · exact waitFor_lasting s _
  · split
    · rw [waitFor_lasting]; rfl
    · split
      · rw [waitFor_lasting]; rfl
      · split
        · exact tryChange_lasting s _
        · split
          · rw [startFrame_lasting _ _ _ _ (by simp)]; rfl
          · exact waitFor_lasting s _

@[simp] theorem attemptOrder_lasting (s : State) (i : Nat) : (s.attemptOrder i).lasting = s.lasting := by
  simp only [attemptOrder]
  split
  · rw [addHold_paper_lasting, waitFor_lasting]
  · exact tryChange_lasting s _
  · next hc =>
    split
    · refine admit_lasting s _ _ _ fun x hx => ?_
      cases hx
      simp only [choose] at hc
      split at hc
      · next hf =>
        cases hc
        exact candidates_pend _ _ (List.mem_of_find?_eq_some hf)
      · split at hc <;> cases hc
    · rfl

@[simp] theorem settleAttempt_lasting (s : State) : s.settleAttempt.lasting = s.lasting := by
  simp only [settleAttempt]
  split
  · exact attemptTest_lasting s
  · split
    · exact attemptOrder_lasting s _
    · exact waitFor_lasting s _

@[simp] theorem attempt_lasting (s : State) : s.attempt.lasting = s.lasting := by
  simp only [attempt]
  split
  · rfl
  · split
    · exact waitFor_lasting s _
    · rw [settleAttempt_lasting]; rfl

@[simp] theorem runAttempt_lasting (s : State) : s.runAttempt.lasting = s.lasting := by
  simp only [runAttempt]
  split
  · rw [attempt_lasting]; rfl
  · rfl

/-! ### Coming to rest -/

@[simp] theorem paperEvents_lasting (before s : State) : (paperEvents before s).lasting = s.lasting := by
  simp only [paperEvents]
  split
  · split <;> split <;> simp
  · rfl

@[simp] theorem endFlush_lasting (s : State) : s.endFlush.lasting = s.lasting := by
  simp only [endFlush]
  split
  · split
    · rw [addCause_encoder_lasting]; rfl
    · rw [setLine_lasting]; rfl
  · rfl

@[simp] theorem frameEndSteps_lasting (s : State) : s.frameEndSteps.lasting = s.lasting := by
  simp only [frameEndSteps]
  split
  · have h : ∀ t : State, (({ t with due.frameEnd := false } : State).dueScan.dueAttempt).lasting
        = t.lasting := fun _ => rfl
    have h' : ∀ t : State, (if t.ctl.pausePending = true then
        { t with ctl.runEnable := false, ctl.pausePending := false } else t).lasting = t.lasting := by
      intro t
      split
      · next hp => simp only [lasting, LineCtl.lasting, hp, Bool.not_true, Bool.and_false,
          Bool.not_false, Bool.and_true]
      · rfl
    rw [h, h']
    split
    · split
      · rfl
      · exact setOrderState_lasting s _ _
    · rfl
  · rfl

@[simp] theorem encoderRespond_lasting (s : State) : s.encoderRespond.lasting = s.lasting := by
  simp only [encoderRespond]
  split
  · split
    · split
      · exact addCause_encoder_lasting s
      · exact startFlush_lasting s
    · exact addCause_encoder_lasting s
    · rfl
  · rfl

@[simp] theorem startPending_lasting (s : State) : s.startPending.lasting = s.lasting := by
  simp only [startPending]
  split
  · rfl
  · split
    · rfl
    · split <;> first | exact startCalibration_lasting s _ | rfl

@[simp] theorem schedule_lasting (s : State) : s.schedule.lasting = s.lasting := by
  simp only [schedule, runAttempt_lasting, runScan_lasting]

@[simp] theorem leaveExposing_lasting (s : State) : s.leaveExposing.lasting = s.lasting := by
  simp only [leaveExposing]
  split
  · exact setLine_lasting s _
  · rfl

@[simp] theorem sync_lasting (s : State) (k : Nat) : (s.sync k).lasting = s.lasting := by
  simp only [sync, syncFlags_lasting]
  have h := syncMotor_lasting s
  rw [← h]; rfl

/-- Coming to rest changes nothing that lasts: the one fact about `settle` that every statement of a
command's own effect rests on. -/
@[simp] theorem settle_lasting (before s : State) : (settle before s).lasting = s.lasting := by
  simp only [settle, sync_lasting, startPending_lasting, encoderRespond_lasting, leaveExposing_lasting,
    schedule_lasting, frameEndSteps_lasting, endFlush_lasting, paperEvents_lasting]

end State

end Sys2Proof.Machine
end

