-- ==== Sys2Proof/Laws/State.lean ====
section
/-! SUPPORT. What each named update of the state leaves in each field: one lemma per field per update. -/

namespace Sys2Proof.Machine

namespace State

variable (s : State)

/-! Record i changed. -/

@[simp] theorem modOrder_pending (i : Nat) (f : Order → Order) : (s.modOrder i f).pending = s.pending := rfl
@[simp] theorem modOrder_now (i : Nat) (f : Order → Order) : (s.modOrder i f).now = s.now := rfl
@[simp] theorem modOrder_freeCount (i : Nat) (f : Order → Order) :
    (s.modOrder i f).freeCount =
      s.freeCount := rfl
@[simp] theorem modOrder_due (i : Nat) (f : Order → Order) : (s.modOrder i f).due = s.due := rfl
@[simp] theorem modOrder_book (i : Nat) (f : Order → Order) :
    (s.modOrder i f).book =
      { s.book with records := modAt f s.book.records i } := rfl
@[simp] theorem modOrder_images (i : Nat) (f : Order → Order) : (s.modOrder i f).images = s.images := rfl
@[simp] theorem modOrder_prices (i : Nat) (f : Order → Order) : (s.modOrder i f).prices = s.prices := rfl
@[simp] theorem modOrder_sched (i : Nat) (f : Order → Order) : (s.modOrder i f).sched = s.sched := rfl
@[simp] theorem modOrder_engine (i : Nat) (f : Order → Order) : (s.modOrder i f).engine = s.engine := rfl
@[simp] theorem modOrder_cal (i : Nat) (f : Order → Order) : (s.modOrder i f).cal = s.cal := rfl
@[simp] theorem modOrder_transport (i : Nat) (f : Order → Order) :
    (s.modOrder i f).transport =
      s.transport := rfl
@[simp] theorem modOrder_cutter (i : Nat) (f : Order → Order) : (s.modOrder i f).cutter = s.cutter := rfl
@[simp] theorem modOrder_monitor (i : Nat) (f : Order → Order) : (s.modOrder i f).monitor = s.monitor := rfl
@[simp] theorem modOrder_sorter (i : Nat) (f : Order → Order) : (s.modOrder i f).sorter = s.sorter := rfl
@[simp] theorem modOrder_ctl (i : Nat) (f : Order → Order) : (s.modOrder i f).ctl = s.ctl := rfl
@[simp] theorem modOrder_ports (i : Nat) (f : Order → Order) : (s.modOrder i f).ports = s.ports := rfl

/-! Counters of one item changed. -/

@[simp] theorem moveCounts_pending (i item : Nat) (f : Counts → Counts) :
    (s.moveCounts i item f).pending =
      s.pending := rfl
@[simp] theorem moveCounts_now (i item : Nat) (f : Counts → Counts) :
    (s.moveCounts i item f).now =
      s.now := rfl
@[simp] theorem moveCounts_freeCount (i item : Nat) (f : Counts → Counts) :
    (s.moveCounts i item f).freeCount =
      s.freeCount := rfl
@[simp] theorem moveCounts_due (i item : Nat) (f : Counts → Counts) :
    (s.moveCounts i item f).due =
      s.due := rfl
@[simp] theorem moveCounts_book (i item : Nat) (f : Counts → Counts) :
    (s.moveCounts i item f).book =
      { s.book with records := modAt (fun o => o.modCounts item f) s.book.records i } := rfl
@[simp] theorem moveCounts_images (i item : Nat) (f : Counts → Counts) :
    (s.moveCounts i item f).images =
      s.images := rfl
@[simp] theorem moveCounts_prices (i item : Nat) (f : Counts → Counts) :
    (s.moveCounts i item f).prices =
      s.prices := rfl
@[simp] theorem moveCounts_sched (i item : Nat) (f : Counts → Counts) :
    (s.moveCounts i item f).sched =
      s.sched := rfl
@[simp] theorem moveCounts_engine (i item : Nat) (f : Counts → Counts) :
    (s.moveCounts i item f).engine =
      s.engine := rfl
@[simp] theorem moveCounts_cal (i item : Nat) (f : Counts → Counts) :
    (s.moveCounts i item f).cal =
      s.cal := rfl
@[simp] theorem moveCounts_transport (i item : Nat) (f : Counts → Counts) :
    (s.moveCounts i item f).transport =
      s.transport := rfl
@[simp] theorem moveCounts_cutter (i item : Nat) (f : Counts → Counts) :
    (s.moveCounts i item f).cutter =
      s.cutter := rfl
@[simp] theorem moveCounts_monitor (i item : Nat) (f : Counts → Counts) :
    (s.moveCounts i item f).monitor =
      s.monitor := rfl
@[simp] theorem moveCounts_sorter (i item : Nat) (f : Counts → Counts) :
    (s.moveCounts i item f).sorter =
      s.sorter := rfl
@[simp] theorem moveCounts_ctl (i item : Nat) (f : Counts → Counts) :
    (s.moveCounts i item f).ctl =
      s.ctl := rfl
@[simp] theorem moveCounts_ports (i item : Nat) (f : Counts → Counts) :
    (s.moveCounts i item f).ports =
      s.ports := rfl

/-! An edge flag raised. -/

@[simp] theorem raise_pending (f : Flag) : (s.raise f).pending = s.pending := rfl
@[simp] theorem raise_now (f : Flag) : (s.raise f).now = s.now := rfl
@[simp] theorem raise_freeCount (f : Flag) : (s.raise f).freeCount = s.freeCount := rfl
@[simp] theorem raise_due (f : Flag) : (s.raise f).due = s.due := rfl
@[simp] theorem raise_book (f : Flag) : (s.raise f).book = s.book := rfl
@[simp] theorem raise_images (f : Flag) : (s.raise f).images = s.images := rfl
@[simp] theorem raise_prices (f : Flag) : (s.raise f).prices = s.prices := rfl
@[simp] theorem raise_sched (f : Flag) : (s.raise f).sched = s.sched := rfl
@[simp] theorem raise_engine (f : Flag) : (s.raise f).engine = s.engine := rfl
@[simp] theorem raise_cal (f : Flag) : (s.raise f).cal = s.cal := rfl
@[simp] theorem raise_transport (f : Flag) : (s.raise f).transport = s.transport := rfl
@[simp] theorem raise_cutter (f : Flag) : (s.raise f).cutter = s.cutter := rfl
@[simp] theorem raise_monitor (f : Flag) : (s.raise f).monitor = s.monitor := rfl
@[simp] theorem raise_sorter (f : Flag) : (s.raise f).sorter = s.sorter := rfl
@[simp] theorem raise_ctl (f : Flag) : (s.raise f).ctl = s.ctl := rfl
@[simp] theorem raise_ports (f : Flag) : (s.raise f).ports = s.ports.setFlags (flagMask f) := rfl

/-! A scan event. -/

@[simp] theorem dueScan_pending : (s.dueScan).pending = s.pending := rfl
@[simp] theorem dueScan_now : (s.dueScan).now = s.now := rfl
@[simp] theorem dueScan_freeCount : (s.dueScan).freeCount = s.freeCount := rfl
@[simp] theorem dueScan_due : (s.dueScan).due = { s.due with scan := true } := rfl
@[simp] theorem dueScan_book : (s.dueScan).book = s.book := rfl
@[simp] theorem dueScan_images : (s.dueScan).images = s.images := rfl
@[simp] theorem dueScan_prices : (s.dueScan).prices = s.prices := rfl
@[simp] theorem dueScan_sched : (s.dueScan).sched = s.sched := rfl
@[simp] theorem dueScan_engine : (s.dueScan).engine = s.engine := rfl
@[simp] theorem dueScan_cal : (s.dueScan).cal = s.cal := rfl
@[simp] theorem dueScan_transport : (s.dueScan).transport = s.transport := rfl
@[simp] theorem dueScan_cutter : (s.dueScan).cutter = s.cutter := rfl
@[simp] theorem dueScan_monitor : (s.dueScan).monitor = s.monitor := rfl
@[simp] theorem dueScan_sorter : (s.dueScan).sorter = s.sorter := rfl
@[simp] theorem dueScan_ctl : (s.dueScan).ctl = s.ctl := rfl
@[simp] theorem dueScan_ports : (s.dueScan).ports = s.ports := rfl

/-! An attempt event. -/

@[simp] theorem dueAttempt_pending : (s.dueAttempt).pending = s.pending := rfl
@[simp] theorem dueAttempt_now : (s.dueAttempt).now = s.now := rfl
@[simp] theorem dueAttempt_freeCount : (s.dueAttempt).freeCount = s.freeCount := rfl
@[simp] theorem dueAttempt_due : (s.dueAttempt).due = { s.due with attempt := true } := rfl
@[simp] theorem dueAttempt_book : (s.dueAttempt).book = s.book := rfl
@[simp] theorem dueAttempt_images : (s.dueAttempt).images = s.images := rfl
@[simp] theorem dueAttempt_prices : (s.dueAttempt).prices = s.prices := rfl
@[simp] theorem dueAttempt_sched : (s.dueAttempt).sched = s.sched := rfl
@[simp] theorem dueAttempt_engine : (s.dueAttempt).engine = s.engine := rfl
@[simp] theorem dueAttempt_cal : (s.dueAttempt).cal = s.cal := rfl
@[simp] theorem dueAttempt_transport : (s.dueAttempt).transport = s.transport := rfl
@[simp] theorem dueAttempt_cutter : (s.dueAttempt).cutter = s.cutter := rfl
@[simp] theorem dueAttempt_monitor : (s.dueAttempt).monitor = s.monitor := rfl
@[simp] theorem dueAttempt_sorter : (s.dueAttempt).sorter = s.sorter := rfl
@[simp] theorem dueAttempt_ctl : (s.dueAttempt).ctl = s.ctl := rfl
@[simp] theorem dueAttempt_ports : (s.dueAttempt).ports = s.ports := rfl

/-! A record enters the print queue. -/

@[simp] theorem enqueue_pending (i : Nat) : (s.enqueue i).pending = s.pending := rfl
@[simp] theorem enqueue_now (i : Nat) : (s.enqueue i).now = s.now := rfl
@[simp] theorem enqueue_freeCount (i : Nat) : (s.enqueue i).freeCount = s.freeCount := rfl
@[simp] theorem enqueue_due (i : Nat) : (s.enqueue i).due = { s.due with scan := true } := rfl
@[simp] theorem enqueue_book (i : Nat) :
    (s.enqueue i).book =
      { s.book with queue := insertQueue s.book.records i s.book.queue } := rfl
@[simp] theorem enqueue_images (i : Nat) : (s.enqueue i).images = s.images := rfl
@[simp] theorem enqueue_prices (i : Nat) : (s.enqueue i).prices = s.prices := rfl
@[simp] theorem enqueue_sched (i : Nat) : (s.enqueue i).sched = s.sched := rfl
@[simp] theorem enqueue_engine (i : Nat) : (s.enqueue i).engine = s.engine := rfl
@[simp] theorem enqueue_cal (i : Nat) : (s.enqueue i).cal = s.cal := rfl
@[simp] theorem enqueue_transport (i : Nat) : (s.enqueue i).transport = s.transport := rfl
@[simp] theorem enqueue_cutter (i : Nat) : (s.enqueue i).cutter = s.cutter := rfl
@[simp] theorem enqueue_monitor (i : Nat) : (s.enqueue i).monitor = s.monitor := rfl
@[simp] theorem enqueue_sorter (i : Nat) : (s.enqueue i).sorter = s.sorter := rfl
@[simp] theorem enqueue_ctl (i : Nat) : (s.enqueue i).ctl = s.ctl := rfl
@[simp] theorem enqueue_ports (i : Nat) : (s.enqueue i).ports = s.ports := rfl

/-! A record leaves the print queue. -/

@[simp] theorem dequeue_pending (i : Nat) : (s.dequeue i).pending = s.pending := rfl
@[simp] theorem dequeue_now (i : Nat) : (s.dequeue i).now = s.now := rfl
@[simp] theorem dequeue_freeCount (i : Nat) : (s.dequeue i).freeCount = s.freeCount := rfl
@[simp] theorem dequeue_due (i : Nat) : (s.dequeue i).due = s.due := rfl
@[simp] theorem dequeue_book (i : Nat) :
    (s.dequeue i).book =
      { s.book with queue := s.book.queue.filter (· != i) } := rfl
@[simp] theorem dequeue_images (i : Nat) : (s.dequeue i).images = s.images := rfl
@[simp] theorem dequeue_prices (i : Nat) : (s.dequeue i).prices = s.prices := rfl
@[simp] theorem dequeue_sched (i : Nat) :
    (s.dequeue i).sched = { s.sched with
      queueBlocked := s.sched.queueBlocked && !(s.book.queue.filter (· != i)).isEmpty } := rfl
@[simp] theorem dequeue_engine (i : Nat) : (s.dequeue i).engine = s.engine := rfl
@[simp] theorem dequeue_cal (i : Nat) : (s.dequeue i).cal = s.cal := rfl
@[simp] theorem dequeue_transport (i : Nat) : (s.dequeue i).transport = s.transport := rfl
@[simp] theorem dequeue_cutter (i : Nat) : (s.dequeue i).cutter = s.cutter := rfl
@[simp] theorem dequeue_monitor (i : Nat) : (s.dequeue i).monitor = s.monitor := rfl
@[simp] theorem dequeue_sorter (i : Nat) : (s.dequeue i).sorter = s.sorter := rfl
@[simp] theorem dequeue_ctl (i : Nat) : (s.dequeue i).ctl = s.ctl := rfl
@[simp] theorem dequeue_ports (i : Nat) : (s.dequeue i).ports = s.ports := rfl

/-! Bins become COMPLETE. -/

@[simp] theorem completeBins_pending (bs : List Nat) : (s.completeBins bs).pending = s.pending := rfl
@[simp] theorem completeBins_now (bs : List Nat) : (s.completeBins bs).now = s.now := rfl
@[simp] theorem completeBins_freeCount (bs : List Nat) : (s.completeBins bs).freeCount = s.freeCount := rfl
@[simp] theorem completeBins_due (bs : List Nat) : (s.completeBins bs).due = s.due := rfl
@[simp] theorem completeBins_book (bs : List Nat) : (s.completeBins bs).book = s.book := rfl
@[simp] theorem completeBins_images (bs : List Nat) : (s.completeBins bs).images = s.images := rfl
@[simp] theorem completeBins_prices (bs : List Nat) : (s.completeBins bs).prices = s.prices := rfl
@[simp] theorem completeBins_sched (bs : List Nat) : (s.completeBins bs).sched = s.sched := rfl
@[simp] theorem completeBins_engine (bs : List Nat) : (s.completeBins bs).engine = s.engine := rfl
@[simp] theorem completeBins_cal (bs : List Nat) : (s.completeBins bs).cal = s.cal := rfl
@[simp] theorem completeBins_transport (bs : List Nat) : (s.completeBins bs).transport = s.transport := rfl
@[simp] theorem completeBins_cutter (bs : List Nat) : (s.completeBins bs).cutter = s.cutter := rfl
@[simp] theorem completeBins_monitor (bs : List Nat) : (s.completeBins bs).monitor = s.monitor := rfl
@[simp] theorem completeBins_sorter (bs : List Nat) :
    (s.completeBins bs).sorter =
      s.sorter.modBins (fun b => { b with state := .complete }) bs := rfl
@[simp] theorem completeBins_ctl (bs : List Nat) : (s.completeBins bs).ctl = s.ctl := rfl
@[simp] theorem completeBins_ports (bs : List Nat) : (s.completeBins bs).ports = s.ports := rfl

/-! COMPLETE bins reopen. -/

@[simp] theorem reopenBins_pending (bs : List Nat) : (s.reopenBins bs).pending = s.pending := rfl
@[simp] theorem reopenBins_now (bs : List Nat) : (s.reopenBins bs).now = s.now := rfl
@[simp] theorem reopenBins_freeCount (bs : List Nat) : (s.reopenBins bs).freeCount = s.freeCount := rfl
@[simp] theorem reopenBins_due (bs : List Nat) : (s.reopenBins bs).due = s.due := rfl
@[simp] theorem reopenBins_book (bs : List Nat) : (s.reopenBins bs).book = s.book := rfl
@[simp] theorem reopenBins_images (bs : List Nat) : (s.reopenBins bs).images = s.images := rfl
@[simp] theorem reopenBins_prices (bs : List Nat) : (s.reopenBins bs).prices = s.prices := rfl
@[simp] theorem reopenBins_sched (bs : List Nat) : (s.reopenBins bs).sched = s.sched := rfl
@[simp] theorem reopenBins_engine (bs : List Nat) : (s.reopenBins bs).engine = s.engine := rfl
@[simp] theorem reopenBins_cal (bs : List Nat) : (s.reopenBins bs).cal = s.cal := rfl
@[simp] theorem reopenBins_transport (bs : List Nat) : (s.reopenBins bs).transport = s.transport := rfl
@[simp] theorem reopenBins_cutter (bs : List Nat) : (s.reopenBins bs).cutter = s.cutter := rfl
@[simp] theorem reopenBins_monitor (bs : List Nat) : (s.reopenBins bs).monitor = s.monitor := rfl
@[simp] theorem reopenBins_sorter (bs : List Nat) :
    (s.reopenBins bs).sorter =
      s.sorter.modBins Bin.reopen bs := rfl
@[simp] theorem reopenBins_ctl (bs : List Nat) : (s.reopenBins bs).ctl = s.ctl := rfl
@[simp] theorem reopenBins_ports (bs : List Nat) : (s.reopenBins bs).ports = s.ports := rfl

/-! The wait cause recorded. -/

@[simp] theorem waitFor_pending (w : WaitCause) : (s.waitFor w).pending = s.pending := rfl
@[simp] theorem waitFor_now (w : WaitCause) : (s.waitFor w).now = s.now := rfl
@[simp] theorem waitFor_freeCount (w : WaitCause) : (s.waitFor w).freeCount = s.freeCount := rfl
@[simp] theorem waitFor_due (w : WaitCause) : (s.waitFor w).due = s.due := rfl
@[simp] theorem waitFor_book (w : WaitCause) : (s.waitFor w).book = s.book := rfl
@[simp] theorem waitFor_images (w : WaitCause) : (s.waitFor w).images = s.images := rfl
@[simp] theorem waitFor_prices (w : WaitCause) : (s.waitFor w).prices = s.prices := rfl
@[simp] theorem waitFor_sched (w : WaitCause) : (s.waitFor w).sched = { s.sched with waitCause := w } := rfl
@[simp] theorem waitFor_engine (w : WaitCause) : (s.waitFor w).engine = s.engine := rfl
@[simp] theorem waitFor_cal (w : WaitCause) : (s.waitFor w).cal = s.cal := rfl
@[simp] theorem waitFor_transport (w : WaitCause) : (s.waitFor w).transport = s.transport := rfl
@[simp] theorem waitFor_cutter (w : WaitCause) : (s.waitFor w).cutter = s.cutter := rfl
@[simp] theorem waitFor_monitor (w : WaitCause) : (s.waitFor w).monitor = s.monitor := rfl
@[simp] theorem waitFor_sorter (w : WaitCause) : (s.waitFor w).sorter = s.sorter := rfl
@[simp] theorem waitFor_ctl (w : WaitCause) : (s.waitFor w).ctl = s.ctl := rfl
@[simp] theorem waitFor_ports (w : WaitCause) : (s.waitFor w).ports = s.ports := rfl

/-! An effect on the scheduler that waits. -/

@[simp] theorem defer_pending : (s.defer).pending = s.pending := rfl
@[simp] theorem defer_now : (s.defer).now = s.now := rfl
@[simp] theorem defer_freeCount : (s.defer).freeCount = s.freeCount := rfl
@[simp] theorem defer_due : (s.defer).due = s.due := rfl
@[simp] theorem defer_book : (s.defer).book = s.book := rfl
@[simp] theorem defer_images : (s.defer).images = s.images := rfl
@[simp] theorem defer_prices : (s.defer).prices = s.prices := rfl
@[simp] theorem defer_sched : (s.defer).sched = { s.sched with deferred := true } := rfl
@[simp] theorem defer_engine : (s.defer).engine = s.engine := rfl
@[simp] theorem defer_cal : (s.defer).cal = s.cal := rfl
@[simp] theorem defer_transport : (s.defer).transport = s.transport := rfl
@[simp] theorem defer_cutter : (s.defer).cutter = s.cutter := rfl
@[simp] theorem defer_monitor : (s.defer).monitor = s.monitor := rfl
@[simp] theorem defer_sorter : (s.defer).sorter = s.sorter := rfl
@[simp] theorem defer_ctl : (s.defer).ctl = s.ctl := rfl
@[simp] theorem defer_ports : (s.defer).ports = s.ports := rfl

/-! The changeover request cleared. -/

@[simp] theorem clearRequest_pending : (s.clearRequest).pending = s.pending := rfl
@[simp] theorem clearRequest_now : (s.clearRequest).now = s.now := rfl
@[simp] theorem clearRequest_freeCount : (s.clearRequest).freeCount = s.freeCount := rfl
@[simp] theorem clearRequest_due : (s.clearRequest).due = s.due := rfl
@[simp] theorem clearRequest_book : (s.clearRequest).book = s.book := rfl
@[simp] theorem clearRequest_images : (s.clearRequest).images = s.images := rfl
@[simp] theorem clearRequest_prices : (s.clearRequest).prices = s.prices := rfl
@[simp] theorem clearRequest_sched : (s.clearRequest).sched = { s.sched with request := none } := rfl
@[simp] theorem clearRequest_engine : (s.clearRequest).engine = s.engine := rfl
@[simp] theorem clearRequest_cal : (s.clearRequest).cal = s.cal := rfl
@[simp] theorem clearRequest_transport : (s.clearRequest).transport = s.transport := rfl
@[simp] theorem clearRequest_cutter : (s.clearRequest).cutter = s.cutter := rfl
@[simp] theorem clearRequest_monitor : (s.clearRequest).monitor = s.monitor := rfl
@[simp] theorem clearRequest_sorter : (s.clearRequest).sorter = s.sorter := rfl
@[simp] theorem clearRequest_ctl : (s.clearRequest).ctl = s.ctl := rfl
@[simp] theorem clearRequest_ports : (s.clearRequest).ports = s.ports := rfl

/-! A calibration request merged. -/

@[simp] theorem mergePending_pending (k : CalKind) : (s.mergePending k).pending = s.pending := rfl
@[simp] theorem mergePending_now (k : CalKind) : (s.mergePending k).now = s.now := rfl
@[simp] theorem mergePending_freeCount (k : CalKind) : (s.mergePending k).freeCount = s.freeCount := rfl
@[simp] theorem mergePending_due (k : CalKind) : (s.mergePending k).due = s.due := rfl
@[simp] theorem mergePending_book (k : CalKind) : (s.mergePending k).book = s.book := rfl
@[simp] theorem mergePending_images (k : CalKind) : (s.mergePending k).images = s.images := rfl
@[simp] theorem mergePending_prices (k : CalKind) : (s.mergePending k).prices = s.prices := rfl
@[simp] theorem mergePending_sched (k : CalKind) : (s.mergePending k).sched = s.sched := rfl
@[simp] theorem mergePending_engine (k : CalKind) : (s.mergePending k).engine = s.engine := rfl
@[simp] theorem mergePending_cal (k : CalKind) :
    (s.mergePending k).cal =
      { s.cal with pending := some (if s.cal.pending == some .long then .long else k) } := rfl
@[simp] theorem mergePending_transport (k : CalKind) : (s.mergePending k).transport = s.transport := rfl
@[simp] theorem mergePending_cutter (k : CalKind) : (s.mergePending k).cutter = s.cutter := rfl
@[simp] theorem mergePending_monitor (k : CalKind) : (s.mergePending k).monitor = s.monitor := rfl
@[simp] theorem mergePending_sorter (k : CalKind) : (s.mergePending k).sorter = s.sorter := rfl
@[simp] theorem mergePending_ctl (k : CalKind) : (s.mergePending k).ctl = s.ctl := rfl
@[simp] theorem mergePending_ports (k : CalKind) : (s.mergePending k).ports = s.ports := rfl

/-! Bin select and gate. -/

@[simp] theorem steer_pending (b : Nat) : (s.steer b).pending = s.pending := rfl
@[simp] theorem steer_now (b : Nat) : (s.steer b).now = s.now := rfl
@[simp] theorem steer_freeCount (b : Nat) : (s.steer b).freeCount = s.freeCount := rfl
@[simp] theorem steer_due (b : Nat) : (s.steer b).due = s.due := rfl
@[simp] theorem steer_book (b : Nat) : (s.steer b).book = s.book := rfl
@[simp] theorem steer_images (b : Nat) : (s.steer b).images = s.images := rfl
@[simp] theorem steer_prices (b : Nat) : (s.steer b).prices = s.prices := rfl
@[simp] theorem steer_sched (b : Nat) : (s.steer b).sched = s.sched := rfl
@[simp] theorem steer_engine (b : Nat) : (s.steer b).engine = s.engine := rfl
@[simp] theorem steer_cal (b : Nat) : (s.steer b).cal = s.cal := rfl
@[simp] theorem steer_transport (b : Nat) : (s.steer b).transport = s.transport := rfl
@[simp] theorem steer_cutter (b : Nat) : (s.steer b).cutter = s.cutter := rfl
@[simp] theorem steer_monitor (b : Nat) : (s.steer b).monitor = s.monitor := rfl
@[simp] theorem steer_sorter (b : Nat) :
    (s.steer b).sorter =
      { s.sorter with select := b, gate := some s.ms } := rfl
@[simp] theorem steer_ctl (b : Nat) : (s.steer b).ctl = s.ctl := rfl
@[simp] theorem steer_ports (b : Nat) : (s.steer b).ports = s.ports := rfl

/-! A back-print counter advances. -/

@[simp] theorem advanceBackPrint_pending (i : Nat) : (s.advanceBackPrint i).pending = s.pending := rfl
@[simp] theorem advanceBackPrint_now (i : Nat) : (s.advanceBackPrint i).now = s.now := rfl
@[simp] theorem advanceBackPrint_freeCount (i : Nat) : (s.advanceBackPrint i).freeCount = s.freeCount := rfl
@[simp] theorem advanceBackPrint_due (i : Nat) : (s.advanceBackPrint i).due = s.due := rfl
@[simp] theorem advanceBackPrint_book (i : Nat) : (s.advanceBackPrint i).book = s.book := rfl
@[simp] theorem advanceBackPrint_images (i : Nat) : (s.advanceBackPrint i).images = s.images := rfl
@[simp] theorem advanceBackPrint_prices (i : Nat) : (s.advanceBackPrint i).prices = s.prices := rfl
@[simp] theorem advanceBackPrint_sched (i : Nat) : (s.advanceBackPrint i).sched = s.sched := rfl
@[simp] theorem advanceBackPrint_engine (i : Nat) :
    (s.advanceBackPrint i).engine =
      { s.engine with bpCounters := modAt (fun n => min 65535 (n + 1)) s.engine.bpCounters i } := rfl
@[simp] theorem advanceBackPrint_cal (i : Nat) : (s.advanceBackPrint i).cal = s.cal := rfl
@[simp] theorem advanceBackPrint_transport (i : Nat) : (s.advanceBackPrint i).transport = s.transport := rfl
@[simp] theorem advanceBackPrint_cutter (i : Nat) : (s.advanceBackPrint i).cutter = s.cutter := rfl
@[simp] theorem advanceBackPrint_monitor (i : Nat) : (s.advanceBackPrint i).monitor = s.monitor := rfl
@[simp] theorem advanceBackPrint_sorter (i : Nat) : (s.advanceBackPrint i).sorter = s.sorter := rfl
@[simp] theorem advanceBackPrint_ctl (i : Nat) : (s.advanceBackPrint i).ctl = s.ctl := rfl
@[simp] theorem advanceBackPrint_ports (i : Nat) : (s.advanceBackPrint i).ports = s.ports := rfl

/-! The end of a frame. -/

@[simp] theorem endFrame_pending : (s.endFrame).pending = s.pending := rfl
@[simp] theorem endFrame_now : (s.endFrame).now = s.now := rfl
@[simp] theorem endFrame_freeCount : (s.endFrame).freeCount = s.freeCount := rfl
@[simp] theorem endFrame_due : (s.endFrame).due = { s.due with frameEnd := true } := rfl
@[simp] theorem endFrame_book : (s.endFrame).book = s.book := rfl
@[simp] theorem endFrame_images : (s.endFrame).images = s.images := rfl
@[simp] theorem endFrame_prices : (s.endFrame).prices = s.prices := rfl
@[simp] theorem endFrame_sched : (s.endFrame).sched = s.sched := rfl
@[simp] theorem endFrame_engine :
    (s.endFrame).engine =
      { s.engine with work := .idle, strobe := none } := rfl
@[simp] theorem endFrame_cal : (s.endFrame).cal = s.cal := rfl
@[simp] theorem endFrame_transport : (s.endFrame).transport = s.transport := rfl
@[simp] theorem endFrame_cutter : (s.endFrame).cutter = s.cutter := rfl
@[simp] theorem endFrame_monitor : (s.endFrame).monitor = s.monitor := rfl
@[simp] theorem endFrame_sorter : (s.endFrame).sorter = s.sorter := rfl
@[simp] theorem endFrame_ctl : (s.endFrame).ctl = s.ctl := rfl
@[simp] theorem endFrame_ports : (s.endFrame).ports = s.ports := rfl

/-! Dead reckoning goes on from the position. -/

@[simp] theorem rebase_pending : (s.rebase).pending = s.pending := rfl
@[simp] theorem rebase_now : (s.rebase).now = s.now := rfl
@[simp] theorem rebase_freeCount : (s.rebase).freeCount = s.freeCount := rfl
@[simp] theorem rebase_due : (s.rebase).due = s.due := rfl
@[simp] theorem rebase_book : (s.rebase).book = s.book := rfl
@[simp] theorem rebase_images : (s.rebase).images = s.images := rfl
@[simp] theorem rebase_prices : (s.rebase).prices = s.prices := rfl
@[simp] theorem rebase_sched : (s.rebase).sched = s.sched := rfl
@[simp] theorem rebase_engine : (s.rebase).engine = s.engine := rfl
@[simp] theorem rebase_cal : (s.rebase).cal = s.cal := rfl
@[simp] theorem rebase_transport :
    (s.rebase).transport = { s.transport with
      deadReckoning := s.transport.deadReckoning.map fun d =>
        { d with base := s.transport.position, runUs := 0 } } := rfl
@[simp] theorem rebase_cutter : (s.rebase).cutter = s.cutter := rfl
@[simp] theorem rebase_monitor : (s.rebase).monitor = s.monitor := rfl
@[simp] theorem rebase_sorter : (s.rebase).sorter = s.sorter := rfl
@[simp] theorem rebase_ctl : (s.rebase).ctl = s.ctl := rfl
@[simp] theorem rebase_ports : (s.rebase).ports = s.ports := rfl

/-! Level flags set. -/

@[simp] theorem syncFlags_pending : (s.syncFlags).pending = s.pending := rfl
@[simp] theorem syncFlags_now : (s.syncFlags).now = s.now := rfl
@[simp] theorem syncFlags_freeCount : (s.syncFlags).freeCount = s.freeCount := rfl
@[simp] theorem syncFlags_due : (s.syncFlags).due = s.due := rfl
@[simp] theorem syncFlags_book : (s.syncFlags).book = s.book := rfl
@[simp] theorem syncFlags_images : (s.syncFlags).images = s.images := rfl
@[simp] theorem syncFlags_prices : (s.syncFlags).prices = s.prices := rfl
@[simp] theorem syncFlags_sched : (s.syncFlags).sched = s.sched := rfl
@[simp] theorem syncFlags_engine : (s.syncFlags).engine = s.engine := rfl
@[simp] theorem syncFlags_cal : (s.syncFlags).cal = s.cal := rfl
@[simp] theorem syncFlags_transport : (s.syncFlags).transport = s.transport := rfl
@[simp] theorem syncFlags_cutter : (s.syncFlags).cutter = s.cutter := rfl
@[simp] theorem syncFlags_monitor : (s.syncFlags).monitor = s.monitor := rfl
@[simp] theorem syncFlags_sorter : (s.syncFlags).sorter = s.sorter := rfl
@[simp] theorem syncFlags_ctl : (s.syncFlags).ctl = s.ctl := rfl
@[simp] theorem syncFlags_ports : (s.syncFlags).ports = s.ports.setFlags s.conditionWord := rfl

/-! Due times moved on. -/

@[simp] theorem shiftDue_pending (n : Nat) : (s.shiftDue n).pending = s.pending := rfl
@[simp] theorem shiftDue_now (n : Nat) : (s.shiftDue n).now = s.now := rfl
@[simp] theorem shiftDue_freeCount (n : Nat) : (s.shiftDue n).freeCount = s.freeCount := rfl
@[simp] theorem shiftDue_due (n : Nat) : (s.shiftDue n).due = s.due := rfl
@[simp] theorem shiftDue_book (n : Nat) : (s.shiftDue n).book = s.book := rfl
@[simp] theorem shiftDue_images (n : Nat) : (s.shiftDue n).images = s.images := rfl
@[simp] theorem shiftDue_prices (n : Nat) : (s.shiftDue n).prices = s.prices := rfl
@[simp] theorem shiftDue_sched (n : Nat) : (s.shiftDue n).sched = s.sched := rfl
@[simp] theorem shiftDue_engine (n : Nat) : (s.shiftDue n).engine = s.engine := rfl
@[simp] theorem shiftDue_cal (n : Nat) : (s.shiftDue n).cal = s.cal := rfl
@[simp] theorem shiftDue_transport (n : Nat) : (s.shiftDue n).transport = s.transport := rfl
@[simp] theorem shiftDue_cutter (n : Nat) : (s.shiftDue n).cutter = s.cutter := rfl
@[simp] theorem shiftDue_monitor (n : Nat) :
    (s.shiftDue n).monitor =
      { s.monitor with sheets := s.monitor.sheets.map fun x => { x with due := x.due + n } } := rfl
@[simp] theorem shiftDue_sorter (n : Nat) : (s.shiftDue n).sorter = s.sorter := rfl
@[simp] theorem shiftDue_ctl (n : Nat) : (s.shiftDue n).ctl = s.ctl := rfl
@[simp] theorem shiftDue_ports (n : Nat) : (s.shiftDue n).ports = s.ports := rfl

/-! A count seen. -/

@[simp] theorem countSeen_pending (f : Bool) : (s.countSeen f).pending = s.pending := rfl
@[simp] theorem countSeen_now (f : Bool) : (s.countSeen f).now = s.now := rfl
@[simp] theorem countSeen_freeCount (f : Bool) : (s.countSeen f).freeCount = s.freeCount := rfl
@[simp] theorem countSeen_due (f : Bool) : (s.countSeen f).due = s.due := rfl
@[simp] theorem countSeen_book (f : Bool) : (s.countSeen f).book = s.book := rfl
@[simp] theorem countSeen_images (f : Bool) : (s.countSeen f).images = s.images := rfl
@[simp] theorem countSeen_prices (f : Bool) : (s.countSeen f).prices = s.prices := rfl
@[simp] theorem countSeen_sched (f : Bool) : (s.countSeen f).sched = s.sched := rfl
@[simp] theorem countSeen_engine (f : Bool) : (s.countSeen f).engine = s.engine := rfl
@[simp] theorem countSeen_cal (f : Bool) : (s.countSeen f).cal = s.cal := rfl
@[simp] theorem countSeen_transport (f : Bool) :
    (s.countSeen f).transport = { s.transport with
      lastCount := s.ms, pulseUs := if f then s.transport.pulseUs else none } := rfl
@[simp] theorem countSeen_cutter (f : Bool) : (s.countSeen f).cutter = s.cutter := rfl
@[simp] theorem countSeen_monitor (f : Bool) : (s.countSeen f).monitor = s.monitor := rfl
@[simp] theorem countSeen_sorter (f : Bool) : (s.countSeen f).sorter = s.sorter := rfl
@[simp] theorem countSeen_ctl (f : Bool) : (s.countSeen f).ctl = s.ctl := rfl
@[simp] theorem countSeen_ports (f : Bool) : (s.countSeen f).ports = s.ports := rfl

/-! A magazine slot's record changed. -/

@[simp] theorem modMag_pending (f : Mag → Mag) (m : MagSlot) :
    (s.modMag f m).pending = s.pending := by cases m <;> rfl
@[simp] theorem modMag_now (f : Mag → Mag) (m : MagSlot) : (s.modMag f m).now = s.now := by cases m <;> rfl
@[simp] theorem modMag_freeCount (f : Mag → Mag) (m : MagSlot) :
    (s.modMag f m).freeCount = s.freeCount := by cases m <;> rfl
@[simp] theorem modMag_due (f : Mag → Mag) (m : MagSlot) : (s.modMag f m).due = s.due := by cases m <;> rfl
@[simp] theorem modMag_book (f : Mag → Mag) (m : MagSlot) :
    (s.modMag f m).book = s.book := by cases m <;> rfl
@[simp] theorem modMag_images (f : Mag → Mag) (m : MagSlot) :
    (s.modMag f m).images = s.images := by cases m <;> rfl
@[simp] theorem modMag_prices (f : Mag → Mag) (m : MagSlot) :
    (s.modMag f m).prices = s.prices := by cases m <;> rfl
@[simp] theorem modMag_sched (f : Mag → Mag) (m : MagSlot) :
    (s.modMag f m).sched = s.sched := by cases m <;> rfl
@[simp] theorem modMag_engine (f : Mag → Mag) (m : MagSlot) :
    (s.modMag f m).engine = s.engine := by cases m <;> rfl
@[simp] theorem modMag_cal (f : Mag → Mag) (m : MagSlot) : (s.modMag f m).cal = s.cal := by cases m <;> rfl
@[simp] theorem modMag_cutter (f : Mag → Mag) (m : MagSlot) :
    (s.modMag f m).cutter = s.cutter := by cases m <;> rfl
@[simp] theorem modMag_monitor (f : Mag → Mag) (m : MagSlot) :
    (s.modMag f m).monitor = s.monitor := by cases m <;> rfl
@[simp] theorem modMag_sorter (f : Mag → Mag) (m : MagSlot) :
    (s.modMag f m).sorter = s.sorter := by cases m <;> rfl
@[simp] theorem modMag_ctl (f : Mag → Mag) (m : MagSlot) : (s.modMag f m).ctl = s.ctl := by cases m <;> rfl
@[simp] theorem modMag_ports (f : Mag → Mag) (m : MagSlot) :
    (s.modMag f m).ports = s.ports := by cases m <;> rfl

/-! A port changed. -/

@[simp] theorem modPort_pending (f : PortState → PortState) (p : Port) :
    (s.modPort f p).pending = s.pending := by cases p <;> rfl
@[simp] theorem modPort_now (f : PortState → PortState) (p : Port) :
    (s.modPort f p).now = s.now := by cases p <;> rfl
@[simp] theorem modPort_freeCount (f : PortState → PortState) (p : Port) :
    (s.modPort f p).freeCount = s.freeCount := by cases p <;> rfl
@[simp] theorem modPort_due (f : PortState → PortState) (p : Port) :
    (s.modPort f p).due = s.due := by cases p <;> rfl
@[simp] theorem modPort_book (f : PortState → PortState) (p : Port) :
    (s.modPort f p).book = s.book := by cases p <;> rfl
@[simp] theorem modPort_images (f : PortState → PortState) (p : Port) :
    (s.modPort f p).images = s.images := by cases p <;> rfl
@[simp] theorem modPort_prices (f : PortState → PortState) (p : Port) :
    (s.modPort f p).prices = s.prices := by cases p <;> rfl
@[simp] theorem modPort_sched (f : PortState → PortState) (p : Port) :
    (s.modPort f p).sched = s.sched := by cases p <;> rfl
@[simp] theorem modPort_engine (f : PortState → PortState) (p : Port) :
    (s.modPort f p).engine = s.engine := by cases p <;> rfl
@[simp] theorem modPort_cal (f : PortState → PortState) (p : Port) :
    (s.modPort f p).cal = s.cal := by cases p <;> rfl
@[simp] theorem modPort_transport (f : PortState → PortState) (p : Port) :
    (s.modPort f p).transport = s.transport := by cases p <;> rfl
@[simp] theorem modPort_cutter (f : PortState → PortState) (p : Port) :
    (s.modPort f p).cutter = s.cutter := by cases p <;> rfl
@[simp] theorem modPort_monitor (f : PortState → PortState) (p : Port) :
    (s.modPort f p).monitor = s.monitor := by cases p <;> rfl
@[simp] theorem modPort_sorter (f : PortState → PortState) (p : Port) :
    (s.modPort f p).sorter = s.sorter := by cases p <;> rfl
@[simp] theorem modPort_ctl (f : PortState → PortState) (p : Port) :
    (s.modPort f p).ctl = s.ctl := by cases p <;> rfl

/-! A reply placed. -/

@[simp] theorem place_pending (h : Hdr) (c : Nat) (st : Status) (l : List Byte) :
    (s.place h c st l).pending = s.pending := by cases h with | mk p _ => cases p <;> rfl
@[simp] theorem place_now (h : Hdr) (c : Nat) (st : Status) (l : List Byte) :
    (s.place h c st l).now = s.now := by cases h with | mk p _ => cases p <;> rfl
@[simp] theorem place_freeCount (h : Hdr) (c : Nat) (st : Status) (l : List Byte) :
    (s.place h c st l).freeCount = s.freeCount := by cases h with | mk p _ => cases p <;> rfl
@[simp] theorem place_due (h : Hdr) (c : Nat) (st : Status) (l : List Byte) :
    (s.place h c st l).due = s.due := by cases h with | mk p _ => cases p <;> rfl
@[simp] theorem place_book (h : Hdr) (c : Nat) (st : Status) (l : List Byte) :
    (s.place h c st l).book = s.book := by cases h with | mk p _ => cases p <;> rfl
@[simp] theorem place_images (h : Hdr) (c : Nat) (st : Status) (l : List Byte) :
    (s.place h c st l).images = s.images := by cases h with | mk p _ => cases p <;> rfl
@[simp] theorem place_prices (h : Hdr) (c : Nat) (st : Status) (l : List Byte) :
    (s.place h c st l).prices = s.prices := by cases h with | mk p _ => cases p <;> rfl
@[simp] theorem place_sched (h : Hdr) (c : Nat) (st : Status) (l : List Byte) :
    (s.place h c st l).sched = s.sched := by cases h with | mk p _ => cases p <;> rfl
@[simp] theorem place_engine (h : Hdr) (c : Nat) (st : Status) (l : List Byte) :
    (s.place h c st l).engine = s.engine := by cases h with | mk p _ => cases p <;> rfl
@[simp] theorem place_cal (h : Hdr) (c : Nat) (st : Status) (l : List Byte) :
    (s.place h c st l).cal = s.cal := by cases h with | mk p _ => cases p <;> rfl
@[simp] theorem place_transport (h : Hdr) (c : Nat) (st : Status) (l : List Byte) :
    (s.place h c st l).transport = s.transport := by cases h with | mk p _ => cases p <;> rfl
@[simp] theorem place_cutter (h : Hdr) (c : Nat) (st : Status) (l : List Byte) :
    (s.place h c st l).cutter = s.cutter := by cases h with | mk p _ => cases p <;> rfl
@[simp] theorem place_monitor (h : Hdr) (c : Nat) (st : Status) (l : List Byte) :
    (s.place h c st l).monitor = s.monitor := by cases h with | mk p _ => cases p <;> rfl
@[simp] theorem place_sorter (h : Hdr) (c : Nat) (st : Status) (l : List Byte) :
    (s.place h c st l).sorter = s.sorter := by cases h with | mk p _ => cases p <;> rfl
@[simp] theorem place_ctl (h : Hdr) (c : Nat) (st : Status) (l : List Byte) :
    (s.place h c st l).ctl = s.ctl := by cases h with | mk p _ => cases p <;> rfl

end State

end Sys2Proof.Machine
end

