-- ==== Sys2Proof/Laws/Book.lean ====
section
/-! SUPPORT. The order book: what reading a record gives after each operation, and that moving an order
between its states keeps the book sound. -/

namespace Sys2Proof.Machine

/-! ### Records -/

theorem getD_modAt {α : Type} (f : α → α) (d : α) :
    ∀ (l : List α) (i j : Nat),
      (modAt f l i).getD j d = if j = i ∧ i < l.length then f (l.getD i d) else l.getD j d
  | [], i, j => by simp [modAt]
  | x :: xs, 0, 0 => by simp [modAt]
  | x :: xs, 0, j + 1 => by simp [modAt]
  | x :: xs, i + 1, 0 => by simp [modAt]
  | x :: xs, i + 1, j + 1 => by
    have h := getD_modAt f d xs i j
    simp only [modAt, List.getD_cons_succ, List.length_cons, h, Nat.add_right_cancel_iff,
      Nat.add_lt_add_iff_right]

@[simp] theorem length_modAt {α : Type} (f : α → α) :
    ∀ (l : List α) (i : Nat), (modAt f l i).length = l.length
  | [], _ => rfl
  | _ :: _, 0 => rfl
  | _ :: xs, i + 1 => by simp [modAt, length_modAt f xs i]

/-- What the book's consistency rests on: number, state, service and sequence of a record. -/
def Order.key (o : Order) : Nat × OrderState × Service × Option Nat :=
  (o.number, o.state, o.service, o.sequence)

theorem Order.ahead_congr {a b c d : Order} (h : a.key = b.key) (k : c.key = d.key) :
    a.ahead c = b.ahead d := by
  simp only [Order.key, Prod.mk.injEq] at h k
  simp only [Order.ahead, h.2.2.1, h.2.2.2, k.2.2.1, k.2.2.2]

namespace State

theorem orderAt_modOrder (s : State) (i j : Nat) (f : Order → Order) :
    (s.modOrder i f).orderAt j =
      if j = i ∧ i < s.book.records.length then f (s.orderAt i) else s.orderAt j :=
  getD_modAt f Order.free s.book.records i j

theorem orderAt_congr {s t : State} (h : t.book.records = s.book.records) (i : Nat) :
    t.orderAt i = s.orderAt i := by simp only [orderAt, h]

/-- A record beyond the table is FREE. -/
theorem orderAt_beyond (s : State) (i : Nat) (h : s.book.records.length ≤ i) :
    s.orderAt i = Order.free := by
  simp only [orderAt, List.getD_eq_getElem?_getD, List.getElem?_eq_none h, Option.getD_none]

/-- A live record lies within the table. -/
theorem lt_of_live {s : State} {i : Nat} (h : (s.orderAt i).live = true) :
    i < s.book.records.length := by
  by_contra hn
  rw [orderAt_beyond s i (by omega)] at h
  exact absurd h (by decide)

/-! ### Operations that leave the book alone -/

theorem syncMotor_book (s : State) : s.syncMotor.book = s.book := by
  simp only [syncMotor]
  split
  · rfl
  · split <;> rfl

theorem copyCorrections_book (s : State) : s.copyCorrections.book = s.book := by
  simp only [copyCorrections]; split <;> rfl

theorem setLine_book (s : State) (l : LineState) : (s.setLine l).book = s.book := by
  simp only [setLine, syncMotor_book]
  split
  · exact copyCorrections_book s
  · rfl

theorem causeOnLine_book (s : State) : s.causeOnLine.book = s.book := by
  simp only [causeOnLine]
  split
  · exact setLine_book s _
  · exact setLine_book s _
  · show (setLine _ _).book = _
    rw [setLine_book]; split <;> rfl
  · rfl

theorem addCause_book (s : State) (c : Cause) : (s.addCause c).book = s.book := by
  simp only [addCause]
  split
  · rfl
  · rw [causeOnLine_book]

theorem startCalibration_book (s : State) (k : CalKind) : (s.startCalibration k).book = s.book := by
  simp only [startCalibration, setLine_book]

theorem writeLines_book (s : State) : s.writeLines.book = s.book := by
  simp only [writeLines]
  split
  · rfl
  · split
    · rfl
    · split <;> rfl
  · split <;> rfl

theorem startFlush_book (s : State) : s.startFlush.book = s.book := by
  simp only [startFlush]
  split
  · exact setLine_book s _
  · rw [writeLines_book]; exact setLine_book s _

theorem requestChange_book (s : State) (m : MagSlot) : (s.requestChange m).book = s.book := by
  simp only [requestChange]
  split
  · simp only [startChangeover, setLine_book]
  · rw [startFlush_book, setLine_book]

theorem tryChange_book (s : State) (m : MagSlot) : (s.tryChange m).book = s.book := by
  simp only [tryChange]
  split
  · rw [requestChange_book]; rfl
  · rfl

theorem countFrame_book (s : State) : s.countFrame.book = s.book := by
  simp only [countFrame]; split <;> rfl

/-! ### The print queue -/

theorem mem_insertQueue (recs : List Order) (i k : Nat) :
    ∀ l, k ∈ insertQueue recs i l ↔ k = i ∨ k ∈ l
  | [] => by simp [insertQueue]
  | j :: l => by
    simp only [insertQueue]
    split
    · simp
    · simp only [List.mem_cons, mem_insertQueue recs i k l]
      tauto

theorem nodup_insertQueue (recs : List Order) (i : Nat) :
    ∀ l, i ∉ l → l.Nodup → (insertQueue recs i l).Nodup
  | [], _, _ => by simp [insertQueue]
  | j :: l, hi, hl => by
    simp only [List.mem_cons, not_or] at hi
    have hl' := List.nodup_cons.mp hl
    simp only [insertQueue]
    split
    · exact List.nodup_cons.mpr ⟨by simp [hi.1, hi.2], hl⟩
    · refine List.nodup_cons.mpr ⟨?_, nodup_insertQueue recs i l hi.2 hl'.2⟩
      rw [mem_insertQueue]
      rintro (h | h)
      · exact hi.1 h.symm
      · exact hl'.1 h

theorem ahead_trans {a b c : Order} (h : a.ahead b = true) (k : b.ahead c = true) :
    a.ahead c = true := by
  unfold Order.ahead at *
  cases ha : a.service <;> cases hb : b.service <;> cases hc : c.service <;>
    simp_all <;> omega

/-- Of two sequenced orders with different sequences one stands ahead of the other (R23). -/
theorem ahead_total {a b : Order} {m n : Nat} (ha : a.sequence = some m) (hb : b.sequence = some n)
    (h : m ≠ n) (k : ¬ a.ahead b = true) : b.ahead a = true := by
  unfold Order.ahead at *
  cases hsa : a.service <;> cases hsb : b.service <;>
    simp_all [orZero] <;> omega

theorem pairwise_insertQueue (recs : List Order) (i : Nat) :
    ∀ l, (∀ j ∈ l, ¬ (recs.getD i Order.free).ahead (recs.getD j Order.free) = true →
        (recs.getD j Order.free).ahead (recs.getD i Order.free) = true) →
      l.Pairwise (fun a b => (recs.getD a Order.free).ahead (recs.getD b Order.free) = true) →
      (insertQueue recs i l).Pairwise
        (fun a b => (recs.getD a Order.free).ahead (recs.getD b Order.free) = true)
  | [], _, _ => by simp [insertQueue]
  | j :: l, ht, hp => by
    have hp' := List.pairwise_cons.mp hp
    simp only [insertQueue]
    split
    · next h =>
      refine List.pairwise_cons.mpr ⟨fun k hk => ?_, hp⟩
      rcases List.mem_cons.mp hk with rfl | hk
      · exact h
      · exact ahead_trans h (hp'.1 k hk)
    · next h =>
      refine List.pairwise_cons.mpr ⟨fun k hk => ?_,
        pairwise_insertQueue recs i l (fun k hk => ht k (List.mem_cons_of_mem _ hk)) hp'.2⟩
      rcases (mem_insertQueue recs i k l).mp hk with rfl | hk
      · exact ht j List.mem_cons_self h
      · exact hp'.1 k hk

/-! ### A record moving to another state -/

theorem setOrderState_records (s : State) (i : Nat) (st : OrderState) :
    (s.setOrderState i st).book.records =
      modAt (fun o => { o with state := st }) s.book.records i := by
  simp only [setOrderState]
  cases (s.orderAt i).state <;> cases st <;> rfl

theorem setOrderState_sequence (s : State) (i : Nat) (st : OrderState) :
    (s.setOrderState i st).book.sequence = s.book.sequence := by
  simp only [setOrderState]
  cases (s.orderAt i).state <;> cases st <;> rfl

/-- The queue after a record has left the state `old`. -/
def queueLeft (q : List Nat) (i : Nat) (old : OrderState) : List Nat :=
  if old = .queued then q.filter (· != i) else q

theorem setOrderState_queue (s : State) (i : Nat) (st : OrderState) :
    (s.setOrderState i st).book.queue =
      if st = .queued then
        insertQueue (modAt (fun o => { o with state := st }) s.book.records i) i
          (queueLeft s.book.queue i (s.orderAt i).state)
      else queueLeft s.book.queue i (s.orderAt i).state := by
  simp only [setOrderState, queueLeft]
  cases (s.orderAt i).state <;> cases st <;> rfl

theorem setOrderState_orderAt (s : State) (i j : Nat) (st : OrderState) :
    (s.setOrderState i st).orderAt j =
      if j = i ∧ i < s.book.records.length then { s.orderAt i with state := st }
      else s.orderAt j := by
  simp only [orderAt, setOrderState_records]
  exact getD_modAt _ Order.free s.book.records i j

theorem setOrderState_other (s : State) {i j : Nat} (st : OrderState) (h : j ≠ i) :
    (s.setOrderState i st).orderAt j = s.orderAt j := by
  rw [setOrderState_orderAt, if_neg (by tauto)]

theorem setOrderState_same (s : State) {i : Nat} (st : OrderState) (h : i < s.book.records.length) :
    (s.setOrderState i st).orderAt i = { s.orderAt i with state := st } := by
  rw [setOrderState_orderAt, if_pos ⟨rfl, h⟩]

end State

/-! ### Soundness -/

/-- The book's consistency rests on the keys of the records, the queue and the counter alone. -/
theorem BookSound.of_keys {s t : State} (h : BookSound s)
    (hr : t.book.records.map Order.key = s.book.records.map Order.key)
    (hq : t.book.queue = s.book.queue) (hn : t.book.sequence = s.book.sequence) : BookSound t := by
  have hk : ∀ i, (t.orderAt i).key = (s.orderAt i).key := by
    intro i
    have h1 : (t.book.records.map Order.key).getD i (Order.free).key = (t.orderAt i).key := by
      simp only [State.orderAt, List.getD_eq_getElem?_getD, List.getElem?_map]
      cases t.book.records[i]? <;> rfl
    have h2 : (s.book.records.map Order.key).getD i (Order.free).key = (s.orderAt i).key := by
      simp only [State.orderAt, List.getD_eq_getElem?_getD, List.getElem?_map]
      cases s.book.records[i]? <;> rfl
    rw [← h1, ← h2, hr]
  have k1 : ∀ i, (t.orderAt i).number = (s.orderAt i).number := fun i => congrArg (·.1) (hk i)
  have k2 : ∀ i, (t.orderAt i).state = (s.orderAt i).state := fun i => congrArg (·.2.1) (hk i)
  have k4 : ∀ i, (t.orderAt i).sequence = (s.orderAt i).sequence := fun i => congrArg (·.2.2.2) (hk i)
  have kl : ∀ i, (t.orderAt i).live = (s.orderAt i).live := fun i => by simp only [Order.live, k2]
  have kc : ∀ i, (t.orderAt i).committedState = (s.orderAt i).committedState := fun i => by
    simp only [Order.committedState, k2]
  refine ⟨?_, ?_, ?_, ?_, ?_, ?_, ?_, ?_, ?_, ?_⟩
  · have := congrArg List.length hr
    simp only [List.length_map] at this
    rw [this]; exact h.size
  · rw [hq]; exact h.queueOnce
  · intro i; rw [hq, k2]; exact h.queueExact i
  · rw [hq]
    exact h.queueInOrder.imp fun {a b} hab => by
      rw [Order.ahead_congr (hk a) (hk b)]; exact hab
  · intro i j; rw [k2, k2]; exact h.oneActive i j
  · intro i; rw [kl, k1]; exact h.numbered i
  · intro i j; rw [kl, kl, k1, k1]; exact h.distinct i j
  · intro i; rw [kc, k4]; exact h.sequenced i
  · intro i n; rw [k4, hn]; exact h.counted i n
  · intro i j n; rw [k4, k4]; exact h.sequenceOnce i j n

theorem BookSound.of_book {s t : State} (h : BookSound s) (hb : t.book = s.book) : BookSound t :=
  h.of_keys (by rw [hb]) (by rw [hb]) (by rw [hb])

theorem BookSound.modOrder {s : State} (h : BookSound s) (i : Nat) (f : Order → Order)
    (hf : ∀ o, (f o).key = o.key) : BookSound (s.modOrder i f) :=
  h.of_keys (map_modAt_of_eq _ f hf _ _) rfl rfl

/-- Moving a live record to a live state keeps the book sound: to ACTIVE only when no other record is
ACTIVE, to a committed state only with a sequence. -/
theorem BookSound.setOrderState {s : State} (h : BookSound s) {i : Nat} {st : OrderState}
    (hlive : (s.orderAt i).live = true) (hst : st ≠ .free)
    (hact : st = .active → ∀ j, (s.orderAt j).state = .active → j = i)
    (hseq : (s.orderAt i).sequence.isSome = true ∨ st = .opened ∨ st = .void) :
    BookSound (s.setOrderState i st) := by
  have hi := State.lt_of_live hlive
  have same := State.setOrderState_same s st hi
  have other : ∀ j, j ≠ i → (s.setOrderState i st).orderAt j = s.orderAt j :=
    fun j hj => State.setOrderState_other s st hj
  have num : ∀ j, ((s.setOrderState i st).orderAt j).number = (s.orderAt j).number := by
    intro j
    by_cases hj : j = i
    · subst hj; rw [same]
    · rw [other j hj]
  have seq : ∀ j, ((s.setOrderState i st).orderAt j).sequence = (s.orderAt j).sequence := by
    intro j
    by_cases hj : j = i
    · subst hj; rw [same]
    · rw [other j hj]
  have live : ∀ j, ((s.setOrderState i st).orderAt j).live = (s.orderAt j).live := by
    intro j
    by_cases hj : j = i
    · subst hj; rw [same, hlive]; simp [Order.live, hst]
    · rw [other j hj]
  have ahead : ∀ j k, ((s.setOrderState i st).orderAt j).ahead ((s.setOrderState i st).orderAt k)
      = (s.orderAt j).ahead (s.orderAt k) := by
    have sv : ∀ j, ((s.setOrderState i st).orderAt j).service = (s.orderAt j).service := by
      intro j
      by_cases hj : j = i
      · subst hj; rw [same]
      · rw [other j hj]
    intro j k
    simp only [Order.ahead, sv, seq]
  -- the queue without record i
  have hleft : ∀ k, k ∈ State.queueLeft s.book.queue i (s.orderAt i).state ↔
      k ≠ i ∧ (s.orderAt k).state = .queued := by
    intro k
    unfold State.queueLeft
    split
    · simp only [List.mem_filter, bne_iff_ne, h.queueExact k]; tauto
    · next hq =>
      rw [h.queueExact k]
      constructor
      · intro hk
        exact ⟨fun e => hq (e ▸ hk), hk⟩
      · exact fun hk => hk.2
  have hleftNodup : (State.queueLeft s.book.queue i (s.orderAt i).state).Nodup := by
    unfold State.queueLeft
    split
    · exact h.queueOnce.filter _
    · exact h.queueOnce
  have hleftOrder : (State.queueLeft s.book.queue i (s.orderAt i).state).Pairwise
      fun a b => (s.orderAt a).ahead (s.orderAt b) = true := by
    unfold State.queueLeft
    split
    · exact h.queueInOrder.filter _
    · exact h.queueInOrder
  have hnot : i ∉ State.queueLeft s.book.queue i (s.orderAt i).state := by
    rw [hleft]; tauto
  refine ⟨?_, ?_, ?_, ?_, ?_, ?_, ?_, ?_, ?_, ?_⟩
  · rw [State.setOrderState_records, length_modAt]; exact h.size
  · rw [State.setOrderState_queue]
    split
    · exact State.nodup_insertQueue _ _ _ hnot hleftNodup
    · exact hleftNodup
  · intro k
    rw [State.setOrderState_queue]
    by_cases hk : k = i
    · subst hk
      rw [same]
      split
      · next hq => simp [State.mem_insertQueue, hq]
      · next hq => simp only [hnot, false_iff]; exact hq
    · rw [other k hk]
      split
      · rw [State.mem_insertQueue, hleft]; tauto
      · rw [hleft]; tauto
  · rw [State.setOrderState_queue]
    split
    · next hq =>
      have hrec : ∀ k, (modAt (fun o => { o with state := st }) s.book.records i).getD k Order.free =
          (s.setOrderState i st).orderAt k := fun k => by
        simp only [State.orderAt, State.setOrderState_records]
      have := State.pairwise_insertQueue
        (modAt (fun o => { o with state := st }) s.book.records i) i
        (State.queueLeft s.book.queue i (s.orderAt i).state)
      simp only [hrec, ahead] at this
      simp only [ahead]
      refine this (fun j hj hna => ?_) hleftOrder
      have hjq := (hleft j).mp hj
      have hjs := h.sequenced j (by simp [Order.committedState, hjq.2])
      obtain ⟨m, hm⟩ := Option.isSome_iff_exists.mp (hseq.resolve_right (by simp [hq]))
      obtain ⟨n, hn⟩ := Option.isSome_iff_exists.mp hjs
      exact State.ahead_total hm hn
        (fun e => hjq.1 (h.sequenceOnce j i n hn (e ▸ hm))) hna
    · simp only [ahead]; exact hleftOrder
  · intro a b ha hb
    by_cases ka : a = i
    · by_cases kb : b = i
      · rw [ka, kb]
      · subst ka
        rw [same] at ha; rw [other b kb] at hb
        exact (hact ha b hb).symm
    · by_cases kb : b = i
      · subst kb
        rw [same] at hb; rw [other a ka] at ha
        exact hact hb a ha
      · rw [other a ka] at ha; rw [other b kb] at hb
        exact h.oneActive a b ha hb
  · intro k; rw [live, num]; exact h.numbered k
  · intro a b; rw [live, live, num, num]; exact h.distinct a b
  · intro k hk
    rw [seq]
    by_cases hki : k = i
    · subst hki
      rw [same] at hk
      rcases hseq with hs | hs | hs
      · exact hs
      · subst hs; exact absurd hk (by simp [Order.committedState])
      · subst hs; exact absurd hk (by simp [Order.committedState])
    · rw [other k hki] at hk
      exact h.sequenced k hk
  · intro k n; rw [seq, State.setOrderState_sequence]; exact h.counted k n
  · intro a b n; rw [seq, seq]; exact h.sequenceOnce a b n

end Sys2Proof.Machine
end

