-- ==== Sys2Proof/Laws/Rest.lean ====
section
/-! SUPPORT. Coming to rest keeps the order book sound, and leaves alone every record that is neither
QUEUED nor ACTIVE and holds no PAPER (`settle_calm`). -/

namespace Sys2Proof.Machine

/-- A record that no scan, attempt or paper event can reach. -/
def Order.undisturbed (o : Order) : Prop :=
  o.state ≠ .queued ∧ o.state ≠ .active ∧ o.holds.paper = false

/-- `t` comes from `s` with the book kept sound and the undisturbed records as they were. -/
structure Calm (s t : State) : Prop where
  sound : BookSound s → BookSound t
  quiet : BookSound s → ∀ i, (s.orderAt i).undisturbed → t.orderAt i = s.orderAt i

theorem Calm.refl (s : State) : Calm s s := ⟨id, fun _ _ _ => rfl⟩

theorem Calm.trans {s t u : State} (h : Calm s t) (k : Calm t u) : Calm s u :=
  ⟨fun hs => k.sound (h.sound hs), fun hs i hi => by
    have ht := h.quiet hs i hi
    rw [k.quiet (h.sound hs) i (ht ▸ hi), ht]⟩

theorem Calm.of_book {s t : State} (h : t.book = s.book) : Calm s t :=
  ⟨fun hs => hs.of_book h, fun _ i _ => State.orderAt_congr (by rw [h]) i⟩

theorem Calm.after {s s' t : State} (h : s'.book = s.book) (k : Calm s' t) : Calm s t :=
  (Calm.of_book h).trans k

/-- A change of one disturbed record that keeps its key is calm. -/
theorem Calm.modOrder {s : State} (i : Nat) (f : Order → Order) (hf : ∀ o, (f o).key = o.key)
    (hi : BookSound s → ¬ (s.orderAt i).undisturbed) : Calm s (s.modOrder i f) :=
  ⟨fun hs => hs.modOrder i f hf, fun hs j hj => by
    rw [State.orderAt_modOrder, if_neg]
    rintro ⟨rfl, _⟩
    exact hi hs hj⟩

theorem committed_live {o : Order} (h : o.committedState = true) : o.live = true := by
  unfold Order.committedState at h
  unfold Order.live
  cases hs : o.state <;> simp_all

namespace State

/-! ### Finding records -/

theorem firstRecord_some {p : Order → Bool} :
    ∀ {l : List Order} {i : Nat}, firstRecord p l = some i →
      i < l.length ∧ p (l.getD i Order.free) = true
  | [], _, h => by simp [firstRecord] at h
  | o :: l, i, h => by
    simp only [firstRecord] at h
    split at h
    · next hp => cases h; exact ⟨by simp, by simpa using hp⟩
    · cases hk : firstRecord p l with
      | none => rw [hk] at h; simp at h
      | some k =>
        rw [hk] at h
        cases h
        have := firstRecord_some hk
        exact ⟨by simpa using this.1, by simpa using this.2⟩

theorem firstRecord_none {p : Order → Bool} (hd : p Order.free = false) :
    ∀ {l : List Order}, firstRecord p l = none → ∀ i, p (l.getD i Order.free) = false
  | [], _, i => by simpa using hd
  | o :: l, h, i => by
    simp only [firstRecord] at h
    split at h
    · exact absurd h (by simp)
    · next hp =>
      cases i with
      | zero => simpa using hp
      | succ i =>
        have hl : firstRecord p l = none := by
          cases hk : firstRecord p l
          · rfl
          · rw [hk] at h; simp at h
        simpa using firstRecord_none hd hl i

theorem current_some {s : State} {i : Nat} (h : s.current = some i) : (s.orderAt i).state = .active := by
  have := (firstRecord_some h).2
  simpa [orderAt] using this

theorem current_none {s : State} (h : s.current = none) (i : Nat) : (s.orderAt i).state ≠ .active := by
  have := firstRecord_none (p := fun o => o.state == .active) (by decide) h i
  simpa [orderAt] using this

/-! ### Holds -/

theorem setOrderState_sound_of_committed {s : State} (h : BookSound s) {i : Nat} {st : OrderState}
    (hc : (s.orderAt i).committedState = true) (hf : st ≠ .free)
    (ha : st = .active → ∀ j, (s.orderAt j).state = .active → j = i) :
    BookSound (s.setOrderState i st) :=
  h.setOrderState (committed_live hc) hf ha (Or.inl (h.sequenced i hc))

theorem addHold_other (s : State) {i j : Nat} (r : Hold) (h : j ≠ i) :
    (s.addHold i r).orderAt j = s.orderAt j := by
  have hm : ∀ f, (s.modOrder i f).orderAt j = s.orderAt j := fun f => by
    rw [orderAt_modOrder, if_neg (by tauto)]
  simp only [addHold]
  split
  · rfl
  · split
    · rw [setOrderState_other _ _ h, hm]
    · exact hm _

theorem addHold_sound {s : State} (h : BookSound s) (i : Nat) (r : Hold) :
    BookSound (s.addHold i r) := by
  have hm : BookSound (s.modOrder i fun o => { o with holds := o.holds.add r }) :=
    h.modOrder i _ fun _ => rfl
  simp only [addHold]
  split
  · exact h
  · split
    · next hact =>
      refine setOrderState_sound_of_committed hm ?_ (by simp) (by simp)
      unfold holdActs at hact
      unfold Order.committedState
      split at hact <;> simp_all
    · exact hm

theorem addHold_calm {s : State} (i : Nat) (r : Hold)
    (hi : BookSound s → ¬ (s.orderAt i).undisturbed) : Calm s (s.addHold i r) :=
  ⟨fun hs => addHold_sound hs i r, fun hs _ hj =>
    addHold_other s r fun e => hi hs (e ▸ hj)⟩

theorem leaveHeld_sound {s : State} (h : BookSound s) (i : Nat) : BookSound (s.leaveHeld i) := by
  simp only [leaveHeld]
  split
  · next hc =>
    simp only [Bool.and_eq_true, beq_iff_eq] at hc
    refine setOrderState_sound_of_committed h (by simp [Order.committedState, hc.1]) ?_ ?_
    · unfold stateByCounts; split
      · simp
      · split <;> simp
    · unfold stateByCounts; split
      · simp
      · split <;> simp
  · exact h

theorem leaveHeld_other (s : State) {i j : Nat} (h : j ≠ i) :
    (s.leaveHeld i).orderAt j = s.orderAt j := by
  simp only [leaveHeld]
  split
  · exact setOrderState_other s _ h
  · rfl

theorem releasePaper1_calm (s : State) (i : Nat) : Calm s (s.releasePaper1 i) := by
  simp only [releasePaper1]
  split
  · next hc =>
    simp only [Bool.and_eq_true] at hc
    refine ⟨fun hs => leaveHeld_sound
      (hs.modOrder i (fun o => { o with holds.paper := false }) fun _ => rfl) i, fun _ j hj => ?_⟩
    have hne : j ≠ i := by
      rintro rfl
      exact absurd hj.2.2 (by simp [hc.2])
    rw [leaveHeld_other _ hne, orderAt_modOrder, if_neg (by tauto)]
  · exact Calm.refl s

theorem foldl_calm {f : State → Nat → State} (hf : ∀ s i, Calm s (f s i)) :
    ∀ (l : List Nat) (s : State), Calm s (l.foldl f s)
  | [], s => Calm.refl s
  | i :: l, s => (hf s i).trans (foldl_calm hf l (f s i))

theorem releasePaper_calm (s : State) : Calm s s.releasePaper :=
  foldl_calm releasePaper1_calm _ s

theorem giveUp_calm (s : State) (o : Option MagSlot) : Calm s (s.giveUp o) := by
  rcases giveUp_cases s o with h | h
  · rw [h]; exact Calm.refl s
  · rw [h]; exact releasePaper_calm s

/-! ### Scan -/

theorem reserve_records {s t : State} {i : Nat} (h : s.reserve i = some t) :
    t.book.records.map Order.key = s.book.records.map Order.key ∧ t.book.queue = s.book.queue ∧
      t.book.sequence = s.book.sequence ∧ (∀ j, (t.orderAt j).state = (s.orderAt j).state) ∧
      ∀ j, j ≠ i → t.orderAt j = s.orderAt j := by
  simp only [reserve] at h
  split at h
  · exact absurd h (by simp)
  · cases h
    refine ⟨?_, rfl, rfl, fun j => ?_, fun j hj => ?_⟩
    · refine map_modAt_of_eq Order.key _ ?_ _ _
      intro o; rfl
    · rw [orderAt_modOrder]
      split
      · next hj => rw [hj.1]; rfl
      · rfl
    · rw [orderAt_modOrder, if_neg (by tauto)]; rfl

theorem select_calm {s : State} (i : Nat) (hq : (s.orderAt i).state = .queued)
    (hn : ∀ j, (s.orderAt j).state ≠ .active) : Calm s (s.select i) := by
  have hb : (s.select i).book = (s.setOrderState i .active).book := rfl
  refine ⟨fun hs => ?_, fun _ j hj => ?_⟩
  · exact (setOrderState_sound_of_committed hs (by simp [Order.committedState, hq]) (by simp)
      (fun _ j hj => absurd hj (hn j))).of_book hb
  · rw [orderAt_congr (by rw [hb])]
    exact setOrderState_other s _ fun e => hj.1 (e ▸ hq)

theorem scanWalk_calm : ∀ (l : List Nat) (s : State), l.Nodup →
    (∀ k ∈ l, (s.orderAt k).state = .queued) → (∀ j, (s.orderAt j).state ≠ .active) →
    Calm s (s.scanWalk l)
  | [], _, _, _, _ => Calm.of_book rfl
  | i :: l, s, hl, hq, hn => by
    have hl' := List.nodup_cons.mp hl
    have hi := hq i List.mem_cons_self
    have hother : ∀ k ∈ l, k ≠ i := fun k hk e => hl'.1 (e ▸ hk)
    simp only [scanWalk]
    split
    · refine (addHold_calm i .paper fun _ hu => hu.1 hi).trans
        (scanWalk_calm l _ hl'.2 (fun k hk => ?_) fun j => ?_)
      · rw [addHold_other s _ (hother k hk)]
        exact hq k (List.mem_cons_of_mem _ hk)
      · by_cases hj : j = i
        · subst hj
          have hlt : j < s.book.records.length :=
            lt_of_live (committed_live (by simp [Order.committedState, hi]))
          simp only [addHold]
          split
          · exact hn j
          · have hm : ∀ f : Order → Order, (∀ o, (f o).state = o.state) →
                ((s.modOrder j f).orderAt j).state = .queued := fun f hf => by
              rw [orderAt_modOrder]
              split
              · rw [hf, hi]
              · exact hi
            split
            · rw [setOrderState_orderAt]
              split
              · simp
              · rw [hm (fun o => { o with holds := o.holds.add .paper }) fun _ => rfl]; simp
            · rw [hm (fun o => { o with holds := o.holds.add .paper }) fun _ => rfl]; simp
        · rw [addHold_other s _ hj]; exact hn j
    · split
      next t ht =>
        obtain ⟨hk, hqq, hsq, hst, hoth⟩ := reserve_records ht
        refine Calm.trans (t := t) ⟨fun hs => hs.of_keys hk hqq hsq, fun _ j hj => ?_⟩
          (select_calm i (by rw [hst]; exact hi) fun j => by rw [hst]; exact hn j)
        exact hoth j fun e => hj.1 (e ▸ hi)
      next => exact scanWalk_calm l s hl'.2 (fun k hk => hq k (List.mem_cons_of_mem _ hk)) hn

theorem runScan_calm (s : State) : Calm s s.runScan := by
  simp only [runScan]
  split
  · split
    · next hm =>
      unfold mayScan at hm
      simp only [Bool.and_eq_true] at hm
      have hn : s.current = none := by
        have := hm.1.1.1.1.1.1
        exact Option.isNone_iff_eq_none.mp this
      have hw : BookSound s → Calm s ({ s with due.scan := false }.scanWalk s.book.queue) := fun hs =>
        Calm.after (s' := { s with due.scan := false }) rfl
          (scanWalk_calm _ _ hs.queueOnce (fun k hk => (hs.queueExact k).mp hk) (current_none hn))
      exact ⟨fun hs => (hw hs).sound hs, fun hs => (hw hs).quiet hs⟩
    · exact Calm.of_book rfl
  · exact Calm.refl s

/-! ### Attempt and frame start -/

theorem modCounts_key (o : Order) (item : Nat) (f : Counts → Counts) :
    (o.modCounts item f).key = o.key := by
  unfold Order.modCounts; split <;> rfl

theorem startPrint_calm {s : State} (t : Target) (h : (s.orderAt t.record).state = .active) :
    Calm s (s.startPrint t) := by
  have hkey : ∀ o : Order, ({ o.modCounts t.item fun n => { n with p := n.p - 1, w := n.w + 1 } with
      started := true } : Order).key = o.key := fun o => by
    rw [← modCounts_key o t.item fun n => { n with p := n.p - 1, w := n.w + 1 }]; rfl
  have hm := Calm.modOrder (s := s) t.record _ hkey fun _ hu => hu.2.1 h
  have hact : ((s.modOrder t.record fun o => { o.modCounts t.item fun n =>
      { n with p := n.p - 1, w := n.w + 1 } with started := true }).orderAt t.record).state
        = .active := by
    rw [orderAt_modOrder]
    split
    · have := congrArg (·.2.1) (hkey (s.orderAt t.record))
      exact this.trans h
    · exact h
  simp only [startPrint]
  split
  · refine hm.trans ⟨fun hs => setOrderState_sound_of_committed hs
      (by simp [Order.committedState, hact]) (by simp) (by simp), fun _ j hj => ?_⟩
    exact setOrderState_other _ _ fun e => hj.2.1 (e ▸ hact)
  · exact hm

theorem startFrame_calm {s : State} (m : MagSlot) (g : Geometry) (t : Option Target)
    (h : ∀ x, t = some x → (s.orderAt x.record).state = .active) : Calm s (s.startFrame m g t) := by
  have hc : Calm s s.copyCorrections := Calm.of_book (copyCorrections_book s)
  have ht : Calm s (s.copyCorrections.startTarget t) := by
    cases t with
    | none => exact hc
    | some x =>
      have hx : (s.copyCorrections.orderAt x.record).state = .active := by
        exact (congrArg Order.state (orderAt_congr (by rw [copyCorrections_book]) _)).trans (h x rfl)
      simp only [startTarget]
      split
      · exact hc.trans (startPrint_calm x hx)
      · exact hc.trans ((startPrint_calm x hx).trans (Calm.of_book rfl))
  refine ht.trans (Calm.of_book ?_)
  simp only [startFrame, writeLines_book, countFrame_book, setLine_book]

theorem admit_calm {s : State} (m : MagSlot) (g : Geometry) (t : Option Target)
    (h : ∀ x, t = some x → (s.orderAt x.record).state = .active) : Calm s (s.startIfClear m g t) := by
  simp only [startIfClear]
  split
  · exact startFrame_calm m g t h
  · exact Calm.of_book rfl

theorem attemptTest_calm (s : State) : Calm s s.attemptTest := by
  simp only [attemptTest]
  split
  · exact Calm.of_book rfl
  · split
    · exact Calm.of_book rfl
    · split
      · exact Calm.of_book rfl
      · split
        · exact Calm.of_book (tryChange_book s _)
        · split
          · exact Calm.after (by rfl) (startFrame_calm _ _ none (by simp))
          · exact Calm.of_book rfl

theorem attemptOrder_calm {s : State} (i : Nat) (h : (s.orderAt i).state = .active) :
    Calm s (s.attemptOrder i) := by
  simp only [attemptOrder]
  split
  · exact Calm.trans (t := s.waitFor s.firstWait) (Calm.of_book rfl)
      (addHold_calm i .paper fun _ hu => hu.2.1 h)
  · exact Calm.of_book (tryChange_book s _)
  · split
    · exact admit_calm _ _ _ fun x hx => by cases hx; exact h
    · exact Calm.refl s

theorem settleAttempt_calm (s : State) : Calm s s.settleAttempt := by
  simp only [settleAttempt]
  split
  · exact attemptTest_calm s
  · split
    next i hi => exact attemptOrder_calm i (current_some hi)
    next => exact Calm.of_book rfl

theorem attempt_calm (s : State) : Calm s s.attempt := by
  simp only [attempt]
  split
  · exact Calm.refl s
  · split
    · exact Calm.of_book rfl
    · exact Calm.after (s' := { s with sched.deferred := false }) rfl (settleAttempt_calm _)

theorem runAttempt_calm (s : State) : Calm s s.runAttempt := by
  simp only [runAttempt]
  split
  · exact Calm.after (by rfl) (attempt_calm _)
  · exact Calm.refl s

/-! ### Coming to rest -/

theorem paperEvents_calm (before s : State) : Calm s (paperEvents before s) := by
  simp only [paperEvents]
  split
  · have hd : ∀ t : State, t.defer.book = t.book := fun _ => rfl
    refine (releasePaper_calm s).trans (Calm.of_book ?_)
    split <;> split <;> simp only [dueAttempt_book, hd]
  · exact Calm.refl s

theorem endFlush_calm (s : State) : Calm s s.endFlush := by
  refine Calm.of_book ?_
  simp only [endFlush]
  split
  · split
    · rw [addCause_book]; rfl
    · rw [setLine_book]; rfl
  · rfl

theorem frameEndSteps_calm (s : State) : Calm s s.frameEndSteps := by
  simp only [frameEndSteps]
  split
  · have h1 : Calm s (match s.current with
        | some i => if (s.orderAt i).holds.isEmpty then s else s.setOrderState i .held
        | none => s) := by
      split
      next i hi =>
        split
        · exact Calm.refl s
        · refine ⟨fun hs => setOrderState_sound_of_committed hs
            (by simp [Order.committedState, current_some hi]) (by simp) (by simp), fun _ j hj => ?_⟩
          exact setOrderState_other s _ fun e => hj.2.1 (e ▸ current_some hi)
      next => exact Calm.refl s
    have h2 : ∀ t : State, (if t.ctl.pausePending = true then
        { t with ctl.runEnable := false, ctl.pausePending := false } else t).book = t.book := by
      intro t; split <;> rfl
    exact h1.trans (Calm.of_book (h2 _))
  · exact Calm.refl s

theorem encoderRespond_calm (s : State) : Calm s s.encoderRespond := by
  refine Calm.of_book ?_
  simp only [encoderRespond]
  split
  · split
    · split
      · exact addCause_book s _
      · exact startFlush_book s
    · exact addCause_book s _
    · rfl
  · rfl

theorem startPending_calm (s : State) : Calm s s.startPending := by
  refine Calm.of_book ?_
  simp only [startPending]
  split
  · rfl
  · split
    · rfl
    · split <;> first | exact startCalibration_book s _ | rfl

theorem schedule_calm (s : State) : Calm s s.schedule :=
  (runScan_calm s).trans ((runAttempt_calm _).trans ((runScan_calm _).trans (runAttempt_calm _)))

theorem leaveExposing_calm (s : State) : Calm s s.leaveExposing := by
  refine Calm.of_book ?_
  simp only [leaveExposing]
  split
  · exact setLine_book s _
  · rfl

theorem sync_calm (s : State) (k : Nat) : Calm s (s.sync k) :=
  Calm.of_book (by
    have : (s.sync k).book = s.syncMotor.book := rfl
    rw [this, syncMotor_book])

/-- Coming to rest keeps the book sound and leaves the undisturbed records as they were. -/
theorem settle_calm (before s : State) : Calm s (settle before s) :=
  (paperEvents_calm before s).trans <| (endFlush_calm _).trans <| (frameEndSteps_calm _).trans <|
    (encoderRespond_calm _).trans <| (startPending_calm _).trans <| (schedule_calm _).trans <|
    (leaveExposing_calm _).trans <| (encoderRespond_calm _).trans <| (startPending_calm _).trans
      (sync_calm _ _)

end State

end Sys2Proof.Machine
end

