-- ==== Sys2Proof/Laws/BookOps.lean ====
section
/-! SUPPORT. The operations of the commands keep the order book sound. -/

namespace Sys2Proof.Machine

namespace State

theorem settle_sound {before s : State} (h : BookSound s) : BookSound (settle before s) :=
  (settle_calm before s).sound h

/-! ### Operations that leave the book alone -/

theorem elapse_book (s : State) (us : Nat) : (s.elapse us).book = s.book := by
  unfold elapse; split <;> rfl
theorem freeBinList_book (s : State) (bs : List Nat) : (s.freeBinList bs).book = s.book := by
  simp only [freeBinList]; split <;> rfl
theorem giveBinList_book (s : State) (bs : List Nat) : (s.giveBinList bs).book = s.book := by
  simp only [giveBinList]; split <;> rfl
theorem faultsGone_book (s : State) : s.faultsGone.book = s.book := by
  have h : ∀ t : State, t.dueScan.dueAttempt.book = t.book := fun _ => rfl
  simp only [faultsGone, h]
  split
  · exact setLine_book s _
  · rfl
theorem setFaults_book (s : State) (f : FaultSet) : (s.setFaults f).book = s.book := by
  simp only [setFaults]
  split
  · rw [faultsGone_book]
  · rfl
theorem leaveWork_book (s : State) : s.leaveWork.book = s.book := by
  have h : ∀ t : State, t.dueScan.dueAttempt.book = t.book := fun _ => rfl
  simp only [leaveWork, h, setLine_book]
theorem wake_book (s : State) : s.wake.book = s.book := by
  simp only [wake]
  split
  · rw [setLine_book]
  · rfl
theorem startPump_book (s : State) : s.startPump.book = s.book := by
  simp only [startPump]; split <;> rfl
theorem handOff_book (s : State) (k : FrameKind) (o : Option OrderItem) (a : Nat) (b : Bool) :
    (s.handOff k o a b).book = s.book := by simp only [handOff, startPump_book]
theorem completePiece_book (s : State) : s.completePiece.book = s.book := by
  simp only [completePiece]
  split
  · rfl
  · split
    · rw [handOff_book]; rfl
    · rfl
theorem fireCut_book (s : State) : s.fireCut.book = s.book := by
  have h : ∀ t : State, ({ t with cutter.web := openAtCut t.cutter.web } : State).book = t.book :=
    fun _ => rfl
  have h' : ∀ t : State, t.dueAttempt.book = t.book := fun _ => rfl
  simp only [fireCut]
  split
  · rw [h', completePiece_book]
  · rw [completePiece_book]
theorem tryCut_book (s : State) : s.tryCut.book = s.book := by
  simp only [tryCut]
  split
  · split
    · exact fireCut_book s
    · rw [addCause_book]
  · rfl
theorem encoderArises_book (s : State) : s.encoderArises.book = s.book := by
  simp only [encoderArises]
  split
  · rw [addCause_book]
  · rfl
theorem mismatch_book (s : State) : s.mismatch.book = s.book := by
  simp only [mismatch]
  split
  · rw [encoderArises_book]
  · rfl
theorem checkIndex_book (s : State) : s.checkIndex.book = s.book := by
  simp only [checkIndex]
  split
  · rfl
  · split
    · rw [mismatch_book]
    · rfl
theorem formSpeed_book (s : State) (n : Nat) : (s.formSpeed n).book = s.book := by
  simp only [formSpeed]; split <;> rfl
theorem indexCheck_book (s : State) (r : Nat) : (s.indexCheck r).book = s.book := by
  simp only [indexCheck]
  split
  · split
    · split
      · rw [formSpeed_book]
      · rfl
    · rfl
  · exact mismatch_book s
theorem indexPulse_book (s : State) : s.indexPulse.book = s.book := by
  simp only [indexPulse]
  split
  · rfl
  · dsimp only
    split
    · rfl
    · exact indexCheck_book s _
theorem unthreadEmpty_book (s : State) : s.unthreadEmpty.book = s.book := by
  simp only [unthreadEmpty]
  split
  · rfl
  · split <;> rfl
theorem consumeRoll_book (s : State) : s.consumeRoll.book = s.book := by
  simp only [consumeRoll]
  split
  · rfl
  · rw [unthreadEmpty_book, modMag_book]
theorem moveTo_book (s : State) (n : Nat) : (s.moveTo n).book = s.book := by
  have h : ∀ t : State, t.judgeMarks.book = t.book := fun _ => rfl
  simp only [moveTo, tryCut_book, h, writeLines_book, checkIndex_book, consumeRoll_book]
theorem pass_book (s : State) (us : Nat) : (s.pass us).book = s.book := by
  simp only [pass]
  split
  · split
    · rw [moveTo_book, elapse_book]
    · exact elapse_book s us
  · exact elapse_book s us
theorem passTo_book (s : State) (t : Nat) : (s.passTo t).book = s.book := by
  simp only [passTo]; split
  · exact pass_book s _
  · rfl
theorem probePasses_book (s : State) : s.probePasses.book = s.book := by
  have h : ∀ t : State, t.dueAttempt.book = t.book := fun _ => rfl
  simp only [probePasses, h, setFaults_book, syncMotor_book]
theorem probeFails_book (s : State) : s.probeFails.book = s.book := by
  have h : ∀ t : State, t.rebase.book = t.book := fun _ => rfl
  simp only [probeFails, syncMotor_book, h]
theorem insertion_book (s : State) (m : MagSlot) : (s.insertion m).book = s.book := by
  simp only [insertion]
  split
  · rw [wake_book, modMag_book]
  · exact modMag_book s _ m
theorem breakProbe_book (s : State) : s.breakProbe.book = s.book := by
  simp only [breakProbe]
  split
  · exact probeFails_book s
  · rfl
theorem rejectSheet_book (s : State) : s.rejectSheet.book = s.book := by
  simp only [rejectSheet]
  split
  · rw [addCause_book]; rfl
  · rfl
theorem enterStandby_book (s : State) : s.enterStandby.book = s.book := by
  simp only [enterStandby, setLine_book]

/-! ### Moves of counters and states -/

theorem moveCounts_sound {s : State} (h : BookSound s) (i item : Nat) (f : Counts → Counts) :
    BookSound (s.moveCounts i item f) :=
  h.modOrder i _ fun o => modCounts_key o item f

/-- A record returns to FREE (R18): it leaves the queue, its number and its sequence. -/
theorem freeOrder_sound {s : State} (h : BookSound s) (i : Nat) : BookSound (s.freeOrder i) := by
  have hrec : (s.freeOrder i).book.records = modAt (fun _ => Order.free) s.book.records i := by
    simp only [freeOrder, raise, modOrder, setOrderState_records]
    have : ∀ (l : List Order) (k : Nat) (f : Order → Order),
        modAt (fun _ => Order.free) (modAt f l k) k = modAt (fun _ => Order.free) l k := by
      intro l
      induction l with
      | nil => intro k f; rfl
      | cons x l ih =>
        intro k f
        cases k
        · rfl
        · simp [modAt, ih]
    exact this _ _ _
  have hq : (s.freeOrder i).book.queue = queueLeft s.book.queue i (s.orderAt i).state := by
    have := setOrderState_queue s i .free
    simp only [reduceCtorEq, if_false] at this
    exact this
  have hn : (s.freeOrder i).book.sequence = s.book.sequence := setOrderState_sequence s i .free
  have hat : ∀ j, (s.freeOrder i).orderAt j = if j = i then Order.free else s.orderAt j := by
    intro j
    have := getD_modAt (fun _ : Order => Order.free) Order.free s.book.records i j
    simp only [orderAt, hrec, this]
    by_cases hj : j = i
    · subst hj
      by_cases hl : j < s.book.records.length
      · simp [hl]
      · simp only [hl, and_false, if_false, if_true]
        exact orderAt_beyond s j (by omega)
    · simp [hj]
  have keep : ∀ j, (s.freeOrder i).orderAt j = Order.free ∨
      (j ≠ i ∧ (s.freeOrder i).orderAt j = s.orderAt j) := by
    intro j
    rw [hat]
    by_cases hj : j = i
    · exact Or.inl (if_pos hj)
    · exact Or.inr ⟨hj, if_neg hj⟩
  have hmem : ∀ k, k ∈ (s.freeOrder i).book.queue → k ≠ i ∧ k ∈ s.book.queue := by
    intro k hk
    rw [hq] at hk
    unfold queueLeft at hk
    split at hk
    · simpa [and_comm] using hk
    · next hs =>
      exact ⟨fun e => hs (e ▸ (h.queueExact k).mp hk), hk⟩
  refine ⟨?_, ?_, ?_, ?_, ?_, ?_, ?_, ?_, ?_, ?_⟩
  · rw [hrec, length_modAt]; exact h.size
  · rw [hq]
    unfold queueLeft
    split
    · exact h.queueOnce.filter _
    · exact h.queueOnce
  · intro k
    constructor
    · intro hk
      have := hmem k hk
      rw [hat, if_neg this.1]
      exact (h.queueExact k).mp this.2
    · intro hk
      rw [hat] at hk
      split at hk
      · exact absurd hk (by decide)
      · next hne =>
        rw [hq]
        unfold queueLeft
        split
        · simp [hne, (h.queueExact k).mpr hk]
        · exact (h.queueExact k).mpr hk
  · have hp : (s.freeOrder i).book.queue.Pairwise
        fun a b => (s.orderAt a).ahead (s.orderAt b) = true := by
      rw [hq]
      unfold queueLeft
      split
      · exact h.queueInOrder.filter _
      · exact h.queueInOrder
    refine List.Pairwise.imp_of_mem (fun {a b} ha hb hab => ?_) hp
    rw [hat, hat, if_neg (hmem a ha).1, if_neg (hmem b hb).1]
    exact hab
  · intro a b ha hb
    rcases keep a with ka | ⟨_, ka⟩
    · rw [ka] at ha; exact absurd ha (by decide)
    · rcases keep b with kb | ⟨_, kb⟩
      · rw [kb] at hb; exact absurd hb (by decide)
      · rw [ka] at ha; rw [kb] at hb; exact h.oneActive a b ha hb
  · intro a ha
    rcases keep a with ka | ⟨_, ka⟩
    · rw [ka] at ha; exact absurd ha (by decide)
    · rw [ka] at ha ⊢; exact h.numbered a ha
  · intro a b ha hb hab
    rcases keep a with ka | ⟨_, ka⟩
    · rw [ka] at ha; exact absurd ha (by decide)
    · rcases keep b with kb | ⟨_, kb⟩
      · rw [kb] at hb; exact absurd hb (by decide)
      · rw [ka] at ha; rw [kb] at hb; rw [ka, kb] at hab
        exact h.distinct a b ha hb hab
  · intro a ha
    rcases keep a with ka | ⟨_, ka⟩
    · rw [ka] at ha; exact absurd ha (by decide)
    · rw [ka] at ha ⊢; exact h.sequenced a ha
  · intro a n ha
    rcases keep a with ka | ⟨_, ka⟩
    · rw [ka] at ha; exact absurd ha (by simp [Order.free])
    · rw [ka] at ha; rw [hn]; exact h.counted a n ha
  · intro a b n ha hb
    rcases keep a with ka | ⟨_, ka⟩
    · rw [ka] at ha; exact absurd ha (by simp [Order.free])
    · rcases keep b with kb | ⟨_, kb⟩
      · rw [kb] at hb; exact absurd hb (by simp [Order.free])
      · rw [ka] at ha; rw [kb] at hb; exact h.sequenceOnce a b n ha hb

theorem afterMove_sound {s : State} (h : BookSound s) (i : Nat) : BookSound (s.afterMove i) := by
  simp only [afterMove]
  split
  · next hs =>
    split
    · exact setOrderState_sound_of_committed h (by simp [Order.committedState, hs]) (by simp) (by simp)
    · exact h
  · split
    · exact freeOrder_sound h i
    · exact h
  · exact h

theorem discard_sound {s : State} (h : BookSound s) (i item : Nat) : BookSound (s.discard i item) :=
  afterMove_sound (moveCounts_sound h i item _) i

theorem spoilLive_sound {s : State} (h : BookSound s) (i item : Nat) :
    BookSound (s.spoilLive i item) := by
  have hm := moveCounts_sound h i item fun n =>
    { n with w := n.w - 1, p := n.p + 1, spoil := min 4 (n.spoil + 1) }
  simp only [spoilLive]
  split
  · exact addHold_sound hm i _
  · split
    · next hs =>
      exact setOrderState_sound_of_committed hm
        (by simp only [beq_iff_eq] at hs; simp [Order.committedState, hs]) (by simp) (by simp)
    · exact hm

theorem spoil_sound {s : State} (h : BookSound s) (x : OrderItem) : BookSound (s.spoil x) := by
  simp only [spoil]
  split
  · exact h
  · split
    · exact discard_sound h _ _
    · exact spoilLive_sound h _ _

theorem spoil?_sound {s : State} (h : BookSound s) (x : Option OrderItem) : BookSound (s.spoil? x) := by
  cases x
  · exact h
  · exact spoil_sound h _

theorem foldl_spoil_sound (l : List OrderItem) :
    ∀ {s : State}, BookSound s → BookSound (l.foldl spoil s) := by
  induction l with
  | nil => intro s h; exact h
  | cons x l ih => intro s h; exact ih (spoil_sound h x)

theorem dropWeb_sound {s : State} (h : BookSound s) : BookSound s.dropWeb := by
  have hd : BookSound ((s.cutter.web.filterMap fun x => x.order).foldl spoil
      { s with cutter := s.cutter.drop }) := foldl_spoil_sound _ (h.of_book rfl)
  simp only [dropWeb]
  split
  · exact hd
  · exact hd.of_book rfl

theorem abortFrame_sound {s : State} (h : BookSound s) : BookSound s.abortFrame := by
  simp only [abortFrame]
  split
  · exact h
  · exact spoil?_sound (s := s.endFrame) (h.of_book rfl) _

theorem abortWaste_sound {s : State} (h : BookSound s) : BookSound s.abortFrame.wasteLast :=
  (abortFrame_sound h).of_book rfl

theorem cutOffEngine_sound {s : State} (h : BookSound s) : BookSound s.cutOffEngine := by
  simp only [cutOffEngine]
  split
  · exact h
  · exact abortWaste_sound h
  · exact h.of_book rfl

theorem loseHead_sound {s : State} (h : BookSound s) : BookSound s.loseHead := by
  simp only [loseHead]
  split
  · exact h
  · next x rest _ =>
    exact (spoil?_sound (s := { s with monitor.sheets := rest }) (h.of_book rfl) x.order).of_book rfl

theorem loseHeads_sound (n : Nat) : ∀ {s : State}, BookSound s → BookSound (s.loseHeads n) := by
  induction n with
  | zero => intro s h; exact h
  | succ n ih => intro s h; exact ih (loseHead_sound h)

theorem jam_sound {s : State} (h : BookSound s) : BookSound s.jam := by
  simp only [jam]
  exact ((loseHead_sound h).of_book (t := { s.loseHead with monitor.stop := some s.ms }) rfl).of_book
    (addCause_book _ _)

theorem checkWatchdog_sound {s : State} (h : BookSound s) : BookSound s.checkWatchdog := by
  simp only [checkWatchdog]
  split
  · split
    · exact jam_sound h
    · exact h
  · exact h

theorem webBreak_sound {s : State} (h : BookSound s) (m : MagSlot) : BookSound (s.webBreak m) := by
  have h0 : BookSound { s.modMag Mag.remove m with transport.threaded := none } :=
    h.of_book (modMag_book s _ m)
  have h1 := (dropWeb_sound (cutOffEngine_sound (h0.of_book (breakProbe_book _)))).of_book
    (addCause_book _ Cause.paperBreak)
  simp only [webBreak]
  split
  · refine BookSound.of_book ?_ (setLine_book _ _)
    exact h1.of_book rfl
  · exact h1.of_book rfl
  · exact h1

theorem loseIncoming_sound {s : State} (h : BookSound s) : BookSound s.loseIncoming := by
  have h0 : BookSound ({ s with transport.changeover := none }.clearRequest.leaveWork) :=
    BookSound.of_book (h.of_book (t := { s with transport.changeover := none }.clearRequest) rfl)
      (leaveWork_book _)
  simp only [loseIncoming]
  split
  · exact addHold_sound h0 _ _
  · exact h0

theorem removal_sound {s : State} (h : BookSound s) (m : MagSlot) : BookSound (s.removal m) := by
  have h0 : BookSound (s.modMag Mag.remove m) := h.of_book (modMag_book s _ m)
  simp only [removal]
  split
  · exact loseIncoming_sound h0
  · exact h0

theorem presenceChange_sound {s : State} (h : BookSound s) (m : MagSlot) (b : Bool) :
    BookSound (s.presenceChange m b) := by
  simp only [presenceChange]
  split
  · exact h.of_book (insertion_book s m)
  · split
    · split
      · exact webBreak_sound h m
      · exact removal_sound h m
    · exact h

theorem takePaperEnd_sound {s : State} (h : BookSound s) (m : MagSlot) :
    BookSound (s.takePaperEnd m) := by
  have h0 : ∀ f, BookSound (s.modMag f m) := fun f => h.of_book (modMag_book s f m)
  simp only [takePaperEnd]
  split
  · split
    · exact abortWaste_sound (h0 _)
    · exact h0 _
  · exact h0 _

theorem thread_sound {s : State} (h : BookSound s) (m : MagSlot) : BookSound (s.thread m) := by
  have h0 : ∀ f, BookSound ({ s with transport.threaded := some m }.modMag f m) := fun f =>
    h.of_book (modMag_book { s with transport.threaded := some m } f m)
  simp only [thread]
  refine BookSound.of_book ?_ (unthreadEmpty_book _)
  split
  · exact takePaperEnd_sound (h0 _) m
  · exact h0 _

theorem deliver_sound {s : State} (h : BookSound s) (i item b : Nat) (x : Bool) :
    BookSound (s.deliver i item b x) := by
  have h0 : BookSound (({ s with sorter := s.sorter.modBins fill [b] }.steer b).moveCounts i item
      fun n => { n with w := n.w - 1, d := n.d + 1 }) :=
    moveCounts_sound (s := { s with sorter := s.sorter.modBins fill [b] }.steer b) (h.of_book rfl) _ _ _
  simp only [deliver]
  refine afterMove_sound ?_ i
  split
  · exact (h0.modOrder i (fun o => { o with inspect := true }) fun _ => rfl).of_book rfl
  · exact h0

theorem sortPrint_sound {s : State} (h : BookSound s) (x : OrderItem) (b : Bool) :
    BookSound (s.sortPrint x b) := by
  have hr := h.of_book (rejectSheet_book s)
  simp only [sortPrint]
  split
  · exact hr
  · split
    · exact discard_sound hr _ _
    · split
      · exact deliver_sound h _ _ _ _
      · exact discard_sound hr _ _

theorem sortSheet_sound {s : State} (h : BookSound s) (x : Sheet) : BookSound (s.sortSheet x) := by
  have hr := h.of_book (rejectSheet_book s)
  simp only [sortSheet]
  split
  · exact sortPrint_sound h _ _
  · split
    · exact hr.of_book rfl
    · exact hr

theorem arrival_sound {s : State} (h : BookSound s) : BookSound s.arrival := by
  simp only [arrival]
  split
  · exact h.of_book (rejectSheet_book s)
  · next x rest _ =>
    exact checkWatchdog_sound (sortSheet_sound
      (s := { s with monitor.sheets := rest }.dueAttempt) (h.of_book rfl) x)

theorem resetActive_sound {s : State} (h : BookSound s) : BookSound s.resetActive := by
  simp only [resetActive]
  split
  · exact h
  · next i hi =>
    refine setOrderState_sound_of_committed h (by simp [Order.committedState, current_some hi]) ?_ ?_
    · unfold stateByCounts
      split
      · split
        · simp
        · split <;> simp
      · simp
    · unfold stateByCounts
      split
      · split
        · simp
        · split <;> simp
      · simp

theorem resetLine_sound {s : State} (h : BookSound s) : BookSound s.resetLine := by
  have h0 := resetActive_sound (dropWeb_sound (cutOffEngine_sound h))
  have h1 : BookSound s.cutOffEngine.dropWeb.resetActive.resetTransport.resetControl := h0.of_book rfl
  simp only [resetLine]
  exact (h1.of_book (setLine_book _ (if s.cutOffEngine.dropWeb.resetActive.resetTransport.resetControl.noFault
    then .stopped else .fault))).of_book rfl

theorem afterSkip_sound {s : State} (h : BookSound s) (i : Nat) : BookSound (s.afterSkip i) := by
  have hne : ∀ o : Order, stateByCounts o ≠ .free ∧ stateByCounts o ≠ .active := fun o => by
    unfold stateByCounts
    split
    · simp
    · split <;> simp
  simp only [afterSkip]
  split
  · exact h
  · split
    · next hs =>
      exact setOrderState_sound_of_committed h (by simp [Order.committedState, hs]) (hne _).1
        (fun e => absurd e (hne _).2)
    · next hs =>
      refine setOrderState_sound_of_committed h (by simp [Order.committedState, hs]) ?_ ?_
      · split
        · simp
        · exact (hne _).1
      · split
        · simp
        · exact fun e => absurd e (hne _).2
    · exact h

theorem cancel_sound {s : State} (h : BookSound s) (i : Nat)
    (hc : (s.orderAt i).committedState = true) : BookSound (s.cancel i) := by
  have hg : BookSound (s.giveBinList (s.orderAt i).bins) := h.of_book (giveBinList_book s _)
  have hkey : ∀ o : Order, ({ o.mapCounts fun n => { n with p := 0, s := n.s + n.p } with
      holds := Holds.none, bins := [], paid := none, settled := none } : Order).key = o.key :=
    fun _ => rfl
  have hm := hg.modOrder i _ hkey
  simp only [cancel]
  split
  · exact freeOrder_sound hm i
  · refine hm.setOrderState ?_ (by simp) (by simp) (Or.inr (Or.inr rfl))
    rw [orderAt_modOrder]
    have hl := committed_live hc
    have hb : (s.giveBinList (s.orderAt i).bins).orderAt i = s.orderAt i :=
      orderAt_congr (by rw [giveBinList_book]) i
    split
    · rw [hb]; exact hl
    · rw [hb]; exact hl

end State

end Sys2Proof.Machine
end

