-- ==== Sys2Proof/Laws/Stored.lean ====
section
/-! SUPPORT. The operations of the blocks leave `State.stored` alone: the queue, the prices, the DRAM and the
page lists, the exposure tables, the staged corrections and the element trims; a slot freed loses its pages. -/

namespace Sys2Proof.Machine

namespace State

/-- What lasts includes what is stored. -/
theorem stored_of_lasting {s t : State} (h : t.lasting = s.lasting) : t.stored = s.stored := by
  have hp : t.pending = s.pending := congrArg (·.pending) h
  have h1 : t.prices = s.prices := congrArg (·.prices) h
  have h2 : t.images = s.images := congrArg (·.images) h
  have h3 : t.engine.curves = s.engine.curves := congrArg (·.engine.curves) h
  have h4 : t.engine.drive = s.engine.drive := congrArg (·.engine.drive) h
  have h5 : t.engine.staged = s.engine.staged := congrArg (·.engine.staged) h
  have h6 : t.cal.trim = s.cal.trim := congrArg (·.cal.trim) h
  simp only [stored, hp, h1, h2, h3, h4, h5, h6]

@[simp] theorem settle_stored (before s : State) : (settle before s).stored = s.stored :=
  stored_of_lasting (settle_lasting before s)
@[simp] theorem setOrderState_stored (s : State) (i : Nat) (st : OrderState) :
    (s.setOrderState i st).stored = s.stored := stored_of_lasting (setOrderState_lasting s i st)
@[simp] theorem addHold_stored (s : State) (i : Nat) (r : Hold) :
    (s.addHold i r).stored = s.stored := by
  simp only [addHold]
  split
  · rfl
  · split
    · rw [setOrderState_stored]; rfl
    · rfl
@[simp] theorem leaveHeld_stored (s : State) (i : Nat) : (s.leaveHeld i).stored = s.stored :=
  stored_of_lasting (leaveHeld_lasting s i)
@[simp] theorem releasePaper_stored (s : State) : s.releasePaper.stored = s.stored :=
  stored_of_lasting (releasePaper_lasting s)
@[simp] theorem giveUp_stored (s : State) (o : Option MagSlot) : (s.giveUp o).stored = s.stored :=
  stored_of_lasting (giveUp_lasting s o)
@[simp] theorem syncMotor_stored (s : State) : s.syncMotor.stored = s.stored :=
  stored_of_lasting (syncMotor_lasting s)
@[simp] theorem copyCorrections_stored (s : State) : s.copyCorrections.stored = s.stored :=
  stored_of_lasting (copyCorrections_lasting s)
@[simp] theorem setLine_stored (s : State) (l : LineState) : (s.setLine l).stored = s.stored :=
  stored_of_lasting (setLine_lasting s l)
@[simp] theorem addCause_stored (s : State) (c : Cause) : (s.addCause c).stored = s.stored := by
  simp only [addCause]
  split
  · rfl
  · rw [stored_of_lasting (causeOnLine_lasting _)]; rfl
@[simp] theorem startCalibration_stored (s : State) (k : CalKind) :
    (s.startCalibration k).stored = s.stored := stored_of_lasting (startCalibration_lasting s k)
@[simp] theorem writeLines_stored (s : State) : s.writeLines.stored = s.stored :=
  stored_of_lasting (writeLines_lasting s)
@[simp] theorem startFlush_stored (s : State) : s.startFlush.stored = s.stored :=
  stored_of_lasting (startFlush_lasting s)

@[simp] theorem modOrder_stored (s : State) (i : Nat) (f : Order → Order) :
    (s.modOrder i f).stored = s.stored := rfl
@[simp] theorem modMag_stored (s : State) (f : Mag → Mag) (m : MagSlot) :
    (s.modMag f m).stored = s.stored := by cases m <;> rfl
@[simp] theorem modPort_stored (s : State) (f : PortState → PortState) (p : Port) :
    (s.modPort f p).stored = s.stored := by cases p <;> rfl
@[simp] theorem place_stored (s : State) (h : Hdr) (c : Nat) (st : Status) (p : List Byte) :
    (s.place h c st p).stored = s.stored := modPort_stored s _ _
@[simp] theorem defer_stored (s : State) : s.defer.stored = s.stored := rfl
@[simp] theorem dueScan_stored (s : State) : s.dueScan.stored = s.stored := rfl
@[simp] theorem dueAttempt_stored (s : State) : s.dueAttempt.stored = s.stored := rfl
@[simp] theorem raise_stored (s : State) (f : Flag) : (s.raise f).stored = s.stored := rfl
@[simp] theorem clearRequest_stored (s : State) : s.clearRequest.stored = s.stored := rfl
@[simp] theorem completeBins_stored (s : State) (bs : List Nat) :
    (s.completeBins bs).stored = s.stored := rfl
@[simp] theorem reopenBins_stored (s : State) (bs : List Nat) :
    (s.reopenBins bs).stored = s.stored := rfl
@[simp] theorem mergePending_stored (s : State) (k : CalKind) :
    (s.mergePending k).stored = s.stored := rfl

@[simp] theorem elapse_stored (s : State) (us : Nat) : (s.elapse us).stored = s.stored := by
  unfold elapse; split <;> rfl

/-! ### Bins and orders -/

@[simp] theorem freeBinList_stored (s : State) (bs : List Nat) :
    (s.freeBinList bs).stored = s.stored := by
  simp only [freeBinList]; split <;> rfl
@[simp] theorem giveBinList_stored (s : State) (bs : List Nat) :
    (s.giveBinList bs).stored = s.stored := by
  simp only [giveBinList]; split <;> rfl

/-- Item references taken from image slots leave the DRAM and the page lists. -/
theorem foldl_dropRef_pages (l : List Item) : ∀ m : ImageStore,
    (l.foldl (fun m (x : Item) => m.dropRef x.slot) m).dram = m.dram ∧
      (l.foldl (fun m (x : Item) => m.dropRef x.slot) m).slots.map (·.pages) = m.slots.map (·.pages) := by
  induction l with
  | nil => intro m; exact ⟨rfl, rfl⟩
  | cons x l ih =>
    intro m
    obtain ⟨h1, h2⟩ := ih (m.dropRef x.slot)
    rw [List.foldl_cons, h1, h2]
    exact ⟨rfl, map_pages_modAt (fun y => { y with refs := y.refs - 1 }) (fun _ => rfl) _ _⟩

@[simp] theorem freeOrder_stored (s : State) (i : Nat) : (s.freeOrder i).stored = s.stored := by
  have h := setOrderState_stored s i .free
  simp only [freeOrder, raise_stored, modOrder_stored]
  rw [← h]
  simp only [stored, foldl_dropRef_pages]

@[simp] theorem moveCounts_stored (s : State) (i item : Nat) (f : Counts → Counts) :
    (s.moveCounts i item f).stored = s.stored := rfl

@[simp] theorem afterMove_stored (s : State) (i : Nat) : (s.afterMove i).stored = s.stored := by
  simp only [afterMove]
  split
  · split <;> simp
  · split <;> simp
  · rfl

@[simp] theorem discard_stored (s : State) (i item : Nat) : (s.discard i item).stored = s.stored := by
  simp only [discard, afterMove_stored, moveCounts_stored]

@[simp] theorem spoilLive_stored (s : State) (i item : Nat) :
    (s.spoilLive i item).stored = s.stored := by
  simp only [spoilLive]
  split
  · simp
  · split <;> simp

@[simp] theorem spoil_stored (s : State) (x : OrderItem) : (s.spoil x).stored = s.stored := by
  simp only [spoil]
  split
  · rfl
  · split <;> simp

@[simp] theorem spoil?_stored (s : State) (x : Option OrderItem) : (s.spoil? x).stored = s.stored := by
  cases x
  · rfl
  · exact spoil_stored s _

theorem foldl_spoil_stored (l : List OrderItem) :
    ∀ s : State, (l.foldl spoil s).stored = s.stored := by
  induction l with
  | nil => intro s; rfl
  | cons x l ih => intro s; rw [List.foldl_cons, ih, spoil_stored]

@[simp] theorem cancel_stored (s : State) (i : Nat) : (s.cancel i).stored = s.stored := by
  simp only [cancel]; split <;> simp

/-! ### Images -/

@[simp] theorem removeSlotItems_stored (s : State) (k : Nat) :
    (s.removeSlotItems k).stored = s.stored := by
  unfold removeSlotItems stored
  dsimp only [ImageStore.modSlot]
  rw [map_pages_modAt]
  exact fun _ => rfl

/-- A slot that goes FREE gives up its pages. -/
@[simp] theorem freeSlot_stored (s : State) (k : Nat) :
    (s.freeSlot k).stored = { s.stored with pages := modAt (fun _ => []) s.stored.pages k } := by
  have h : ∀ (l : List ImageSlot) (i : Nat), (modAt (fun x : ImageSlot =>
      { x with state := .free, size := none, pages := [] }) l i).map (·.pages) =
      modAt (fun _ => []) (l.map (·.pages)) i := by
    intro l
    induction l with
    | nil => intro i; rfl
    | cons x l ih => intro i; cases i <;> simp [modAt, ih]
  simp only [freeSlot, stored, ImageStore.modSlot, h]

/-- A load fault gives up the slot's pages. -/
@[simp] theorem loadFault_stored (s : State) (k : Nat) :
    (s.loadFault k).stored = { s.stored with pages := modAt (fun _ => []) s.stored.pages k } := by
  have h := freeSlot_stored ({ s with images.load := none }.removeSlotItems k) k
  rw [removeSlotItems_stored] at h
  exact h

@[simp] theorem loadDone_stored (s : State) (k : Nat) : (s.loadDone k).stored = s.stored := by
  rw [loadDone, raise_stored]
  unfold stored
  dsimp only [ImageStore.modSlot]
  rw [map_pages_modAt]
  exact fun _ => rfl

/-! ### Line -/

@[simp] theorem faultsGone_stored (s : State) : s.faultsGone.stored = s.stored := by
  simp only [faultsGone, dueAttempt_stored, dueScan_stored]
  split <;> simp

@[simp] theorem setFaults_stored (s : State) (f : FaultSet) : (s.setFaults f).stored = s.stored := by
  simp only [setFaults]
  split
  · rw [faultsGone_stored]; rfl
  · rfl

@[simp] theorem leaveWork_stored (s : State) : s.leaveWork.stored = s.stored := by
  simp only [leaveWork, dueAttempt_stored, dueScan_stored, setLine_stored]

@[simp] theorem wake_stored (s : State) : s.wake.stored = s.stored := by
  simp only [wake]
  split
  · rw [setLine_stored]; rfl
  · rfl

/-! ### Engine, monitor, cutter -/

@[simp] theorem endFrame_stored (s : State) : s.endFrame.stored = s.stored := rfl

@[simp] theorem abortFrame_stored (s : State) : s.abortFrame.stored = s.stored := by
  simp only [abortFrame]; split <;> simp

@[simp] theorem wasteLast_stored (s : State) : s.wasteLast.stored = s.stored := rfl

@[simp] theorem startPump_stored (s : State) : s.startPump.stored = s.stored := by
  simp only [startPump]; split <;> rfl

@[simp] theorem handOff_stored (s : State) (k : FrameKind) (o : Option OrderItem) (a : Nat) (b : Bool) :
    (s.handOff k o a b).stored = s.stored := by
  simp only [handOff, startPump_stored]; rfl

@[simp] theorem loseHead_stored (s : State) : s.loseHead.stored = s.stored := by
  simp only [loseHead]
  split
  · rfl
  · simp only [dueAttempt_stored, spoil?_stored]; rfl

@[simp] theorem loseHeads_stored (n : Nat) : ∀ s : State, (s.loseHeads n).stored = s.stored := by
  induction n with
  | zero => intro s; rfl
  | succ n ih => intro s; simp only [loseHeads, ih, loseHead_stored]

@[simp] theorem jam_stored (s : State) : s.jam.stored = s.stored := by
  have h := loseHead_stored s
  simp only [jam, addCause_stored]
  exact h

@[simp] theorem checkWatchdog_stored (s : State) : s.checkWatchdog.stored = s.stored := by
  simp only [checkWatchdog]
  split
  · split <;> simp
  · rfl

@[simp] theorem completePiece_stored (s : State) : s.completePiece.stored = s.stored := by
  simp only [completePiece]
  split
  · rfl
  · split
    · simp only [handOff_stored]; rfl
    · rfl

@[simp] theorem fireCut_stored (s : State) : s.fireCut.stored = s.stored := by
  have h : ∀ t : State, ({ t with cutter.web := openAtCut t.cutter.web } : State).stored = t.stored :=
    fun _ => rfl
  simp only [fireCut]
  split
  · simp only [dueAttempt_stored, h, completePiece_stored]; rfl
  · simp only [h, completePiece_stored]; rfl

@[simp] theorem tryCut_stored (s : State) : s.tryCut.stored = s.stored := by
  simp only [tryCut]
  split
  · split
    · exact fireCut_stored s
    · rw [addCause_stored]; rfl
  · rfl

@[simp] theorem judgeMarks_stored (s : State) : s.judgeMarks.stored = s.stored := rfl

@[simp] theorem dropWeb_stored (s : State) : s.dropWeb.stored = s.stored := by
  simp only [dropWeb]
  split
  · rw [foldl_spoil_stored]; rfl
  · rw [dueAttempt_stored, foldl_spoil_stored]; rfl

/-! ### Transport -/

@[simp] theorem encoderArises_stored (s : State) : s.encoderArises.stored = s.stored := by
  simp only [encoderArises]
  split
  · rw [addCause_stored]; rfl
  · rfl

@[simp] theorem mismatch_stored (s : State) : s.mismatch.stored = s.stored := by
  simp only [mismatch]
  split
  · rw [encoderArises_stored]; rfl
  · rfl

@[simp] theorem checkIndex_stored (s : State) : s.checkIndex.stored = s.stored := by
  simp only [checkIndex]
  split
  · rfl
  · split
    · rw [mismatch_stored]; rfl
    · rfl

@[simp] theorem formSpeed_stored (s : State) (n : Nat) : (s.formSpeed n).stored = s.stored := by
  simp only [formSpeed]; split <;> rfl

@[simp] theorem indexCheck_stored (s : State) (r : Nat) : (s.indexCheck r).stored = s.stored := by
  simp only [indexCheck]
  split
  · split
    · split
      · rw [formSpeed_stored]; rfl
      · rfl
    · rfl
  · exact mismatch_stored s

@[simp] theorem indexPulse_stored (s : State) : s.indexPulse.stored = s.stored := by
  simp only [indexPulse]
  split
  · rfl
  · have h : ∀ t : State, ({ t with
      transport.indexRef := some s.transport.position
      transport.revInUse := s.transport.countsPerRev
      transport.pulseUs := if s.transport.motor then some s.now else none } : State).stored
        = t.stored := fun _ => rfl
    rw [h]
    split
    · rfl
    · exact indexCheck_stored s _

@[simp] theorem unthreadEmpty_stored (s : State) : s.unthreadEmpty.stored = s.stored := by
  simp only [unthreadEmpty]
  split
  · rfl
  · split <;> rfl

@[simp] theorem consumeRoll_stored (s : State) : s.consumeRoll.stored = s.stored := by
  simp only [consumeRoll]
  split
  · rfl
  · simp

@[simp] theorem moveTo_stored (s : State) (n : Nat) : (s.moveTo n).stored = s.stored := by
  simp only [moveTo, tryCut_stored, judgeMarks_stored, writeLines_stored, checkIndex_stored,
    consumeRoll_stored]
  rfl

@[simp] theorem pass_stored (s : State) (us : Nat) : (s.pass us).stored = s.stored := by
  simp only [pass]
  split
  · split <;> simp
  · exact elapse_stored s us

@[simp] theorem passTo_stored (s : State) (t : Nat) : (s.passTo t).stored = s.stored := by
  simp only [passTo]
  split
  · exact pass_stored s _
  · rfl

@[simp] theorem rebase_stored (s : State) : s.rebase.stored = s.stored := rfl

@[simp] theorem probePasses_stored (s : State) : s.probePasses.stored = s.stored := by
  simp only [probePasses, dueAttempt_stored, setFaults_stored, syncMotor_stored]; rfl

@[simp] theorem probeFails_stored (s : State) : s.probeFails.stored = s.stored := by
  simp only [probeFails, syncMotor_stored, rebase_stored]; rfl

@[simp] theorem insertion_stored (s : State) (m : MagSlot) : (s.insertion m).stored = s.stored := by
  simp only [insertion]; split <;> simp

@[simp] theorem loseIncoming_stored (s : State) : s.loseIncoming.stored = s.stored := by
  simp only [loseIncoming]
  split
  · simp only [addHold_stored, leaveWork_stored, clearRequest_stored]; rfl
  · simp only [leaveWork_stored, clearRequest_stored]; rfl

@[simp] theorem removal_stored (s : State) (m : MagSlot) : (s.removal m).stored = s.stored := by
  simp only [removal]; split <;> simp

@[simp] theorem cutOffEngine_stored (s : State) : s.cutOffEngine.stored = s.stored := by
  simp only [cutOffEngine]
  split
  · rfl
  · simp
  · rfl

@[simp] theorem breakProbe_stored (s : State) : s.breakProbe.stored = s.stored := by
  simp only [breakProbe]; split <;> simp

@[simp] theorem webBreak_stored (s : State) (m : MagSlot) : (s.webBreak m).stored = s.stored := by
  have h : (({ s.modMag Mag.remove m with
      transport.threaded := none } : State).breakProbe.cutOffEngine.dropWeb.addCause .paperBreak).stored =
        s.stored := by
    simp only [addCause_stored, dropWeb_stored, cutOffEngine_stored, breakProbe_stored]
    exact modMag_stored s _ m
  simp only [webBreak]
  split
  · rw [setLine_stored]; exact h
  · rw [dueAttempt_stored, dueScan_stored]; exact h
  · exact h

@[simp] theorem presenceChange_stored (s : State) (m : MagSlot) (b : Bool) :
    (s.presenceChange m b).stored = s.stored := by
  simp only [presenceChange]
  split
  · simp
  · split
    · split <;> simp
    · rfl

@[simp] theorem takePaperEnd_stored (s : State) (m : MagSlot) : (s.takePaperEnd m).stored = s.stored := by
  simp only [takePaperEnd]
  split
  · split <;> simp
  · simp

@[simp] theorem thread_stored (s : State) (m : MagSlot) : (s.thread m).stored = s.stored := by
  simp only [thread, unthreadEmpty_stored]
  split
  · rw [takePaperEnd_stored]; exact modMag_stored _ _ m
  · exact modMag_stored _ _ m

/-! ### Requests of the line port -/

@[simp] theorem askCalibration_stored (s : State) (k : CalKind) (p : Bool) :
    (s.askCalibration k p).stored = s.stored := by
  simp only [askCalibration]; split <;> simp

@[simp] theorem copyNow_stored (s : State) : s.copyNow.stored = s.stored := by
  simp only [copyNow]; split <;> simp

@[simp] theorem checkFlush_stored (s : State) : s.checkFlush.stored = s.stored := by
  simp only [checkFlush]
  split
  · split <;> simp
  · rfl

@[simp] theorem enterStandby_stored (s : State) : s.enterStandby.stored = s.stored := by
  simp only [enterStandby, setLine_stored]; rfl

@[simp] theorem checkStandby_stored (s : State) : s.checkStandby.stored = s.stored := by
  simp only [checkStandby]
  split
  · split <;> simp
  · rfl

@[simp] theorem startProbe_stored (s : State) : s.startProbe.stored = s.stored := by
  simp only [startProbe, syncMotor_stored]; rfl

@[simp] theorem resetActive_stored (s : State) : s.resetActive.stored = s.stored := by
  simp only [resetActive]; split <;> simp

@[simp] theorem resetLine_stored (s : State) : s.resetLine.stored = s.stored := by
  have h : (s.cutOffEngine.dropWeb.resetActive.resetTransport.resetControl).stored = s.stored := by
    have h' : s.cutOffEngine.dropWeb.resetActive.stored = s.stored := by simp
    rw [← h']; rfl
  simp only [resetLine]
  rw [← h, ← setLine_stored (s.cutOffEngine.dropWeb.resetActive.resetTransport.resetControl)]
  rfl

@[simp] theorem afterSkip_stored (s : State) (i : Nat) : (s.afterSkip i).stored = s.stored := by
  simp only [afterSkip]
  split
  · rfl
  · split <;> simp

@[simp] theorem shiftDue_stored (s : State) (n : Nat) : (s.shiftDue n).stored = s.stored := rfl

/-! ### Sorter -/

@[simp] theorem steer_stored (s : State) (b : Nat) : (s.steer b).stored = s.stored := rfl

@[simp] theorem rejectSheet_stored (s : State) : s.rejectSheet.stored = s.stored := by
  simp only [rejectSheet]
  split
  · rw [addCause_stored]; rfl
  · rfl

@[simp] theorem deliver_stored (s : State) (i item b : Nat) (x : Bool) :
    (s.deliver i item b x).stored = s.stored := by
  simp only [deliver, afterMove_stored]
  split
  · simp only [raise_stored, modOrder_stored, moveCounts_stored, steer_stored]; rfl
  · simp only [moveCounts_stored, steer_stored]; rfl

@[simp] theorem sortPrint_stored (s : State) (x : OrderItem) (b : Bool) :
    (s.sortPrint x b).stored = s.stored := by
  simp only [sortPrint]
  split
  · simp
  · split
    · simp
    · split <;> simp

@[simp] theorem sortSheet_stored (s : State) (x : Sheet) : (s.sortSheet x).stored = s.stored := by
  simp only [sortSheet]
  split
  · simp
  · split <;> simp

@[simp] theorem arrival_stored (s : State) : s.arrival.stored = s.stored := by
  simp only [arrival]
  split
  · simp
  · simp only [checkWatchdog_stored, sortSheet_stored, dueAttempt_stored]; rfl

end State

end Sys2Proof.Machine
end

