-- ==== Sys2Proof/Laws/Frames.lean ====
section
/-! SUPPORT. What the moves of orders leave alone: everything but the book, the image store, the queue
blocked condition, the bins, the ports and the scan and attempt events (`OrderFrame`). And the frame of a
change of the line state, and of the passing of time. -/

namespace Sys2Proof.Machine

/-- `t` differs from `s` only where moves of orders write. -/
def OrderFrame (s t : State) : Prop :=
  t = { s with
    book := t.book, images := t.images, ports := t.ports
    sched.queueBlocked := t.sched.queueBlocked
    sorter.bins := t.sorter.bins
    due.scan := t.due.scan
    due.attempt := t.due.attempt }

theorem OrderFrame.refl (s : State) : OrderFrame s s := rfl

theorem OrderFrame.trans {s t u : State} (h : OrderFrame s t) (k : OrderFrame t u) : OrderFrame s u := by
  unfold OrderFrame at *
  rw [h] at k
  exact k

namespace State

theorem modOrder_frame (s : State) (i : Nat) (f : Order → Order) : OrderFrame s (s.modOrder i f) := rfl
theorem raise_frame (s : State) (f : Flag) : OrderFrame s (s.raise f) := rfl

theorem setOrderState_frame (s : State) (i : Nat) (st : OrderState) :
    OrderFrame s (s.setOrderState i st) := by
  simp only [setOrderState]
  cases (s.orderAt i).state <;> cases st <;> rfl

theorem freeOrder_frame (s : State) (i : Nat) : OrderFrame s (s.freeOrder i) :=
  (setOrderState_frame s i .free).trans rfl

theorem addHold_frame (s : State) (i : Nat) (r : Hold) : OrderFrame s (s.addHold i r) := by
  simp only [addHold]
  split
  · rfl
  · split
    · exact (modOrder_frame s i _).trans (setOrderState_frame _ i .held)
    · exact modOrder_frame s i _

theorem leaveHeld_frame (s : State) (i : Nat) : OrderFrame s (s.leaveHeld i) := by
  simp only [leaveHeld]
  split
  · exact setOrderState_frame s i _
  · rfl

theorem releasePaper1_frame (s : State) (i : Nat) : OrderFrame s (s.releasePaper1 i) := by
  simp only [releasePaper1]
  split
  · exact (modOrder_frame s i _).trans (leaveHeld_frame _ i)
  · exact OrderFrame.refl s

theorem foldl_releasePaper1_frame (l : List Nat) : ∀ s : State, OrderFrame s (l.foldl releasePaper1 s) := by
  induction l with
  | nil => exact OrderFrame.refl
  | cons i l ih => intro s; exact (releasePaper1_frame s i).trans (ih _)

theorem releasePaper_frame (s : State) : OrderFrame s s.releasePaper := foldl_releasePaper1_frame _ s

theorem giveUp_frame (s : State) (o : Option MagSlot) : OrderFrame s (s.giveUp o) := by
  rcases giveUp_cases s o with h | h
  · rw [h]; exact OrderFrame.refl s
  · rw [h]; exact releasePaper_frame s

theorem afterMove_frame (s : State) (i : Nat) : OrderFrame s (s.afterMove i) := by
  simp only [afterMove]
  split
  · split
    · exact setOrderState_frame s i _
    · rfl
  · split
    · exact freeOrder_frame s i
    · rfl
  · rfl

theorem discard_frame (s : State) (i item : Nat) : OrderFrame s (s.discard i item) :=
  (modOrder_frame s i _).trans (afterMove_frame _ i)

theorem spoilLive_frame (s : State) (i item : Nat) : OrderFrame s (s.spoilLive i item) := by
  have h := modOrder_frame s i fun o => o.modCounts item fun n =>
    { n with w := n.w - 1, p := n.p + 1, spoil := min 4 (n.spoil + 1) }
  simp only [spoilLive]
  split
  · exact h.trans (addHold_frame _ i .fault)
  · split
    · exact h.trans (setOrderState_frame _ i .queued)
    · exact h

theorem spoil_frame (s : State) (x : OrderItem) : OrderFrame s (s.spoil x) := by
  simp only [spoil]
  split
  · rfl
  · split
    · exact discard_frame s _ _
    · exact spoilLive_frame s _ _

theorem spoil?_frame (s : State) (x : Option OrderItem) : OrderFrame s (s.spoil? x) := by
  cases x
  · rfl
  · exact spoil_frame s _

theorem foldl_spoil_frame (l : List OrderItem) : ∀ s : State, OrderFrame s (l.foldl spoil s) := by
  induction l with
  | nil => intro s; rfl
  | cons x l ih => intro s; exact (spoil_frame s x).trans (ih _)

/-! ### The line state and the time base -/

theorem setLine_ctl (s : State) (l : LineState) : (s.setLine l).ctl = { s.ctl with line := l } := by
  simp only [setLine, syncMotor, copyCorrections]
  split <;> split <;> (try split) <;> (try split) <;> rfl

/-- A change of the line state writes the line state, the motor and the live corrections. -/
theorem setLine_frame (s : State) (l : LineState) :
    s.setLine l = { s with
      ctl := { s.ctl with line := l }
      transport := (s.setLine l).transport
      engine := (s.setLine l).engine } := by
  simp only [setLine, syncMotor, copyCorrections]
  split <;> split <;> (try split) <;> (try split) <;> rfl

theorem setLine_due (s : State) (l : LineState) : (s.setLine l).due = s.due := by rw [setLine_frame]

theorem elapse_now (s : State) (us : Nat) : (s.elapse us).now = s.now + us := by
  simp only [elapse]
  split <;> rfl

/-! ### Commands carried out -/

theorem served_of {o : Out} {s u : State} {h : Hdr} {code : Nat} {st : Status} {p : List Byte}
    (e : o = .next ((State.settle s u).place h code st p)) : Served o s u h code st p :=
  ⟨e, settle_lasting s u⟩

theorem happens_of {o : Out} {s u : State} (e : o = .next (State.settle s u)) : Happens o s u :=
  ⟨e, settle_lasting s u⟩

/-! ### Records -/

theorem modAt_length {α : Type} (f : α → α) (l : List α) (k : Nat) : (modAt f l k).length = l.length := by
  induction l generalizing k with
  | nil => rfl
  | cons a l ih => cases k <;> simp [modAt, ih]

theorem modAt_modAt {α : Type} (f g : α → α) : ∀ (l : List α) (i : Nat),
    modAt f (modAt g l i) i = modAt (fun x => f (g x)) l i
  | [], _ => rfl
  | _ :: _, 0 => rfl
  | y :: l, i + 1 => by simp [modAt, modAt_modAt f g l i]

theorem findLive_some {s : State} {n i : Nat} (h : s.findLive n = some i) :
    (s.orderAt i).live = true ∧ (s.orderAt i).number = n := by
  have := (firstRecord_some h).2
  simpa [orderAt] using this

theorem modOrder_other (s : State) {i j : Nat} (f : Order → Order) (h : j ≠ i) :
    (s.modOrder i f).orderAt j = s.orderAt j := by
  rw [orderAt_modOrder, if_neg (by tauto)]

theorem modOrder_same (s : State) {i : Nat} (f : Order → Order) (h : i < s.book.records.length) :
    (s.modOrder i f).orderAt i = f (s.orderAt i) := by
  rw [orderAt_modOrder, if_pos ⟨rfl, h⟩]

/-- Of what lasts, a change of an order's state writes the book only. -/
theorem setOrderState_book_lasting (m : State) (i : Nat) (st : OrderState) :
    (m.setOrderState i st).lasting = ({ m with book := (m.setOrderState i st).book } : State).lasting := by
  rw [setOrderState_lasting]
  have h1 := setOrderState_sequence m i st
  have h2 : (m.setOrderState i st).book.records.map Order.lasting = m.book.records.map Order.lasting := by
    rw [setOrderState_records,
      map_modAt_of_eq Order.lasting (fun o => { o with state := st }) (fun _ => rfl)]
  simp only [lasting, h1, h2]

end State

end Sys2Proof.Machine
end

