-- ==== Sys2Proof/Laws/BookRequests.lean ====
section
/-! SUPPORT. The requests that open, commit, withdraw, release and reprint an order keep the order book
sound. -/

namespace Sys2Proof.Machine

/-- One record replaced by another, neither of them in the print queue and the new one not ACTIVE. -/
theorem BookSound.replace {s t : State} (h : BookSound s) {i : Nat} {r : Order}
    (hi : i < s.book.records.length)
    (hrec : t.book.records = modAt (fun _ => r) s.book.records i)
    (hq : t.book.queue = s.book.queue) (hn : s.book.sequence ≤ t.book.sequence)
    (hold : (s.orderAt i).state ≠ .queued) (hrq : r.state ≠ .queued) (hra : r.state ≠ .active)
    (hnum : r.live = true → r.number ≠ 0 ∧
      ∀ j, j ≠ i → (s.orderAt j).live = true → (s.orderAt j).number ≠ r.number)
    (hseq : r.committedState = true → r.sequence.isSome = true)
    (hcnt : ∀ n, r.sequence = some n →
      n ≤ t.book.sequence ∧ ∀ j, j ≠ i → (s.orderAt j).sequence ≠ some n) : BookSound t := by
  have same : t.orderAt i = r := by
    simp only [State.orderAt, hrec]; rw [getD_modAt, if_pos ⟨rfl, hi⟩]
  have other : ∀ j, j ≠ i → t.orderAt j = s.orderAt j := fun j hj => by
    simp only [State.orderAt, hrec]; rw [getD_modAt, if_neg (by tauto)]
  have hmem : ∀ j, j ∈ s.book.queue → j ≠ i := fun j hj e => by
    subst e; exact hold ((h.queueExact j).mp hj)
  refine ⟨?_, ?_, ?_, ?_, ?_, ?_, ?_, ?_, ?_, ?_⟩
  · rw [hrec, State.modAt_length]; exact h.size
  · rw [hq]; exact h.queueOnce
  · intro k
    rw [hq]
    by_cases hk : k = i
    · subst hk; rw [same, h.queueExact k]; exact ⟨fun e => absurd e hold, fun e => absurd e hrq⟩
    · rw [other k hk]; exact h.queueExact k
  · rw [hq]
    refine h.queueInOrder.imp_of_mem fun {a b} ha hb hab => ?_
    rw [other a (hmem a ha), other b (hmem b hb)]; exact hab
  · intro a b ha hb
    by_cases ka : a = i
    · subst ka; rw [same] at ha; exact absurd ha hra
    · by_cases kb : b = i
      · subst kb; rw [same] at hb; exact absurd hb hra
      · rw [other a ka] at ha; rw [other b kb] at hb; exact h.oneActive a b ha hb
  · intro k hk
    by_cases hki : k = i
    · subst hki; rw [same] at hk ⊢; exact (hnum hk).1
    · rw [other k hki] at hk ⊢; exact h.numbered k hk
  · intro a b ha hb hab
    by_cases ka : a = i
    · by_cases kb : b = i
      · rw [ka, kb]
      · subst ka
        rw [same] at ha hab; rw [other b kb] at hb hab
        exact absurd hab.symm ((hnum ha).2 b kb hb)
    · by_cases kb : b = i
      · subst kb
        rw [same] at hb hab; rw [other a ka] at ha hab
        exact absurd hab ((hnum hb).2 a ka ha)
      · rw [other a ka] at ha hab; rw [other b kb] at hb hab
        exact h.distinct a b ha hb hab
  · intro k hk
    by_cases hki : k = i
    · subst hki; rw [same] at hk ⊢; exact hseq hk
    · rw [other k hki] at hk ⊢; exact h.sequenced k hk
  · intro k n hk
    by_cases hki : k = i
    · subst hki; rw [same] at hk; exact (hcnt n hk).1
    · rw [other k hki] at hk; exact (h.counted k n hk).trans hn
  · intro a b n ha hb
    by_cases ka : a = i
    · by_cases kb : b = i
      · rw [ka, kb]
      · subst ka
        rw [same] at ha; rw [other b kb] at hb
        exact absurd hb ((hcnt n ha).2 b kb)
    · by_cases kb : b = i
      · subst kb
        rw [same] at hb; rw [other a ka] at ha
        exact absurd ha ((hcnt n hb).2 a ka)
      · rw [other a ka] at ha; rw [other b kb] at hb
        exact h.sequenceOnce a b n ha hb

namespace State

/-- A number that `findLive` does not find is held by no live record. -/
theorem findLive_none {s : State} {n : Nat} (h : s.findLive n = none) (j : Nat)
    (hl : (s.orderAt j).live = true) : (s.orderAt j).number ≠ n := by
  intro e
  have := firstRecord_none (p := fun o => o.live && o.number == n) (by simp [Order.live, Order.free]) h j
  change ((s.orderAt j).live && (s.orderAt j).number == n) = false at this
  simp [hl, e] at this

/-- A new OPEN order in a FREE record (R2). -/
theorem open_sound {s : State} (h : BookSound s) {i : Nat} {r : Order}
    (hi : i < s.book.records.length) (hfree : (s.orderAt i).live = false) (hst : r.state = .opened)
    (hn : r.number ≠ 0) (hf : s.findLive r.number = none) (hseq : r.sequence = none) :
    BookSound (s.modOrder i fun _ => r) := by
  refine h.replace hi rfl rfl (Nat.le_refl _) ?_ (by simp [hst]) (by simp [hst])
    (fun _ => ⟨hn, fun j _ hl => findLive_none hf j hl⟩) (by simp [Order.committedState, hst])
    (by simp [hseq])
  intro e
  simp [Order.live, e] at hfree

/-- A record that keeps number and state may drop its sequence unless it is committed, or stands in no
queue and takes the next one. -/
theorem sequence_sound {s t : State} (h : BookSound s) {i : Nat} {r : Order}
    (hlive : (s.orderAt i).live = true) (hst : (s.orderAt i).state = .opened)
    (hr : r.state = .opened) (hnum : r.number = (s.orderAt i).number)
    (hrec : t.book.records = modAt (fun _ => r) s.book.records i)
    (hq : t.book.queue = s.book.queue)
    (hseq : r.sequence = none ∧ t.book.sequence = s.book.sequence ∨
      r.sequence = some (s.book.sequence + 1) ∧ t.book.sequence = s.book.sequence + 1) :
    BookSound t := by
  refine h.replace (lt_of_live hlive) hrec hq ?_ (by simp [hst]) (by simp [hr]) (by simp [hr])
    (fun _ => ⟨by rw [hnum]; exact h.numbered i hlive, fun j hj hl e => ?_⟩)
    (by simp [Order.committedState, hr]) (fun n hn => ?_)
  · rcases hseq with ⟨_, e⟩ | ⟨_, e⟩ <;> omega
  · rw [hnum] at e
    exact hj (h.distinct j i hl hlive e)
  · rcases hseq with ⟨e, _⟩ | ⟨e, k⟩
    · rw [e] at hn; cases hn
    · rw [e] at hn
      have : n = s.book.sequence + 1 := by simpa using hn.symm
      refine ⟨by omega, fun j _ hj => ?_⟩
      have := h.counted j n hj
      omega

theorem modAt_congr_at {α : Type} (f g : α → α) : ∀ (l : List α) (i : Nat) (d : α),
    f (l.getD i d) = g (l.getD i d) → modAt f l i = modAt g l i
  | [], _, _, _ => rfl
  | _ :: _, 0, _, h => by simpa [modAt] using h
  | _ :: l, i + 1, d, h => by simpa [modAt] using modAt_congr_at f g l i d (by simpa using h)

theorem orderOpen_sound {s : State} (h : BookSound s) (a : OrderOpenArgs) : BookSound (s.orderOpen a).state := by
  simp only [orderOpen]
  split
  · next origin service index _ _ _ =>
    split
    · exact h
    · next hr =>
      split
      · exact h
      · next hd =>
        split
        · exact h
        · next i hi =>
          have hf := firstRecord_some hi
          have hs := open_sound h (i := i) (r := { Order.free with
            number := a.number.toNat, state := .opened, origin := origin, service := service
            promo := a.promo.toNat, indexRequested := index
            index := if index then some ⟨none, Counts.new 1⟩ else none }) hf.1
            (by simpa [orderAt] using hf.2) rfl (fun e => hr (Or.inl e)) (by simpa using hd) rfl
          exact settle_sound (hs.of_book rfl)
  · exact h

theorem commit_sound {s : State} (h : BookSound s) {i : Nat} (ho : (s.orderAt i).state = .opened)
    (pre : Bool) : BookSound (s.commit i pre).state := by
  have hl : (s.orderAt i).live = true := by simp [Order.live, ho]
  have h1 : BookSound { s.modOrder i (fun _ => s.committed (s.orderAt i) pre) with
      book.sequence := s.book.sequence + 1 } :=
    sequence_sound (r := s.committed (s.orderAt i) pre) h hl ho ho rfl rfl rfl (Or.inr ⟨rfl, rfl⟩)
  have hat : ({ s.modOrder i (fun _ => s.committed (s.orderAt i) pre) with
      book.sequence := s.book.sequence + 1 } : State).orderAt i = s.committed (s.orderAt i) pre :=
    modOrder_same s _ (lt_of_live hl)
  have h2 := h1.setOrderState (i := i) (st := .queued) (by rw [hat]; exact hl) (by simp) (by simp)
    (Or.inl (by rw [hat]; rfl))
  simp only [commit]
  refine settle_sound ?_
  split
  · exact h2.of_book (wake_book _)
  · exact h2

theorem orderCommit_sound {s : State} (h : BookSound s) (n : Half) (b : Byte) :
    BookSound (s.orderCommit n b).state := by
  simp only [orderCommit]
  split
  · exact h
  · split
    · exact h
    · next i _ =>
      split
      · exact h
      · next ho =>
        have ho : (s.orderAt i).state = .opened := by
          simp only [Bool.or_eq_true, not_or, bne_iff_ne, ne_eq, not_not] at ho; exact ho.1
        split
        · exact h
        · split
          · exact h
          · split
            · exact h
            · split
              · exact h
              · split
                · exact h
                · split
                  · exact h
                  · split
                    · exact h
                    · exact commit_sound h ho _

theorem orderWithdraw_sound {s : State} (h : BookSound s) (n : Half) :
    BookSound (s.orderWithdraw n).state := by
  simp only [orderWithdraw]
  split
  · exact h
  · next i hi =>
    split
    · exact h
    · have hl := (findLive_some hi).1
      have h1 := (h.setOrderState (i := i) (st := .opened) hl (by simp) (by simp) (Or.inr (Or.inl rfl)))
      have h2 := h1.of_book (freeBinList_book _ (s.orderAt i).bins)
      have hat : ((s.setOrderState i .opened).freeBinList (s.orderAt i).bins).orderAt i =
          { s.orderAt i with state := .opened } := by
        rw [orderAt_congr (s := s.setOrderState i .opened) (by rw [freeBinList_book]) i]
        exact setOrderState_same s _ (lt_of_live hl)
      refine settle_sound ?_
      have hlen := lt_of_live (s := (s.setOrderState i .opened).freeBinList (s.orderAt i).bins) (i := i)
        (by rw [hat]; rfl)
      let r : Order := { s.orderAt i with
        state := .opened, lock := none, sequence := none, settled := none, bins := []
        index := (s.orderAt i).index.map fun x => { x with product := none } }
      refine sequence_sound (r := r) h2 (i := i) (by rw [hat]; rfl) (by rw [hat]) rfl (by rw [hat])
        ?_ rfl (Or.inl ⟨rfl, rfl⟩)
      refine modAt_congr_at _ _ _ i Order.free ?_
      show _ = _
      have : ((s.setOrderState i .opened).freeBinList (s.orderAt i).bins).book.records.getD i Order.free =
          { s.orderAt i with state := .opened } := hat
      rw [this]

theorem reprint_sound {s : State} (h : BookSound s) (n : Half) (k m : Byte) :
    BookSound (s.orderReprint n k m).state := by
  simp only [orderReprint]
  split
  · exact h
  · next i hi =>
    split
    · exact h
    · next hr =>
      have hr : (s.orderAt i).state = .ready := by simpa using hr
      split
      · exact h
      · split
        · exact h
        · split
          · exact h
          · have hl := (findLive_some hi).1
            have h1 := moveCounts_sound h i k.toNat fun c => { c with c := c.c + m.toNat, p := c.p + m.toNat }
            have h2 := h1.of_book (t := (s.moveCounts i k.toNat fun c =>
              { c with c := c.c + m.toNat, p := c.p + m.toNat }).reopenBins (s.orderAt i).bins) rfl
            have h3 : BookSound (((s.moveCounts i k.toNat fun c =>
                { c with c := c.c + m.toNat, p := c.p + m.toNat }).reopenBins
                  (s.orderAt i).bins).setOrderState i .queued) := by
              refine setOrderState_sound_of_committed h2 ?_ (by simp) (by simp)
              show ((s.modOrder i _).orderAt i).committedState = true
              rw [modOrder_same s _ (lt_of_live hl)]
              have : ∀ o : Order, ∀ f, (o.modCounts k.toNat f).state = o.state := fun o f => by
                simp only [Order.modCounts]; split <;> rfl
              simp only [Order.committedState, this, hr]
            refine settle_sound ?_
            split
            · exact h3.of_book (wake_book _)
            · exact h3

theorem release_sound {s : State} (h : BookSound s) (i : Nat) (p : Port) :
    BookSound ((s.modOrder i fun o => o.release p).leaveHeld i) :=
  leaveHeld_sound (h.modOrder i _ fun o => by simp only [Order.release]; split <;> rfl) i

end State

end Sys2Proof.Machine
end

