-- ==== Sys2Proof/Laws/Moves.lean ====
section
/-! SUPPORT. What the operations of the line, the transport and the cutter leave alone, one lemma for each. -/

namespace Sys2Proof.Machine

/-- `b` differs from `a` only in what a motor start writes. -/
def TrSame (a b : Transport) : Prop :=
  b = { a with
    motor := b.motor, speed := b.speed, lastCount := b.lastCount, pulseUs := b.pulseUs
    matched := b.matched, nomInUse := b.nomInUse }

theorem FaultSet.put_of_has (f : FaultSet) (c : Cause) (h : f.has c = true) : f.put true c = f := by
  cases c <;> (simp only [has] at h; simp only [put]; rw [← h])

namespace State

/-! ### The line -/

/-- A cause added writes the fault set, what a change of the line state writes, and the events of a flush's
end. -/
theorem addCause_facts (s : State) (c : Cause) :
    s.addCause c = { s with
      ctl := { s.ctl with line := (s.addCause c).ctl.line, faults := s.ctl.faults.put true c }
      transport := (s.addCause c).transport
      engine := (s.addCause c).engine
      due := (s.addCause c).due } := by
  simp only [addCause]
  split
  · next h => rw [FaultSet.put_of_has _ _ h]
  · simp only [causeOnLine]
    split
    · rw [setLine_ctl, setLine_due]; exact setLine_frame _ _
    · rw [setLine_ctl, setLine_due]; exact setLine_frame _ _
    · have h : ∀ a : State, ((a.setLine .fault).dueScan.dueAttempt).ctl = { a.ctl with line := .fault } :=
        fun a => setLine_ctl a .fault
      have k : ∀ a : State, (a.setLine .fault).dueScan.dueAttempt = { a with
          ctl := { a.ctl with line := .fault }
          transport := ((a.setLine .fault).dueScan.dueAttempt).transport
          engine := ((a.setLine .fault).dueScan.dueAttempt).engine
          due := ((a.setLine .fault).dueScan.dueAttempt).due } := fun a => by
        have e := setLine_frame a .fault
        generalize a.setLine .fault = t at e ⊢
        rw [e]
        rfl
      rw [h]
      split
      · exact k { s with ctl.faults := s.ctl.faults.put true c, engine.work := .idle }
      · exact k _
    · rfl

theorem syncMotor_tr (s : State) : TrSame s.transport s.syncMotor.transport := by
  simp only [syncMotor, TrSame]
  split
  · rfl
  · split <;> rfl

theorem copyCorrections_tr (s : State) : s.copyCorrections.transport = s.transport := by
  simp only [copyCorrections]
  split <;> rfl

theorem setLine_tr (s : State) (l : LineState) : TrSame s.transport (s.setLine l).transport := by
  have key : ∀ a : State, a.transport = s.transport →
      TrSame s.transport ({ a with ctl.line := l } : State).syncMotor.transport := fun a ha => by
    rw [← ha]
    exact syncMotor_tr { a with ctl.line := l }
  refine key _ ?_
  split
  · exact copyCorrections_tr s
  · rfl

theorem addCause_tr (s : State) (c : Cause) : TrSame s.transport (s.addCause c).transport := by
  simp only [addCause]
  split
  · rfl
  · simp only [causeOnLine]
    split
    · exact setLine_tr _ _
    · exact setLine_tr _ _
    · split
      · exact setLine_tr { s with ctl.faults := s.ctl.faults.put true c, engine.work := .idle } _
      · exact setLine_tr { s with ctl.faults := s.ctl.faults.put true c } _
    · rfl

theorem addCause_in_fault (s : State) (c : Cause) (h : s.ctl.line = .fault) :
    s.addCause c = { s with ctl.faults := s.ctl.faults.put true c } := by
  simp only [addCause]
  split
  · next hh => rw [FaultSet.put_of_has _ _ hh]
  · simp only [causeOnLine, h]

/-- What setting the fault set writes: the set, the line state and what goes with it, two events. -/
theorem setFaults_tr (s : State) (f : FaultSet) :
    TrSame s.transport (s.setFaults f).transport ∧ (s.setFaults f).ctl.faults = f ∧
      (s.setFaults f).ctl.lastProbe = s.ctl.lastProbe ∧
      (s.setFaults f).lasting = ({ s with ctl.faults := f } : State).lasting := by
  simp only [setFaults]
  split
  · simp only [faultsGone]
    split
    · refine ⟨?_, ?_, ?_, ?_⟩
      · exact setLine_tr { s with ctl.faults := f } _
      · show (setLine _ _).ctl.faults = _; rw [setLine_ctl]
      · show (setLine _ _).ctl.lastProbe = _; rw [setLine_ctl]
      · show (setLine _ _).lasting = _; rw [setLine_lasting]
    · exact ⟨rfl, rfl, rfl, rfl⟩
  · exact ⟨rfl, rfl, rfl, rfl⟩

theorem setFaults_monitor (s : State) (f : FaultSet) :
    (s.setFaults f).monitor = s.monitor ∧ (s.setFaults f).now = s.now := by
  simp only [setFaults]
  split
  · simp only [faultsGone]
    split
    · show (setLine _ _).monitor = _ ∧ (setLine _ _).now = _
      rw [setLine_frame]; exact ⟨rfl, rfl⟩
    · exact ⟨rfl, rfl⟩
  · exact ⟨rfl, rfl⟩

theorem leaveWork_frame (s : State) :
    s.leaveWork = { s with
      ctl := { s.ctl with line := if s.noFault then .stopped else .fault }
      transport := s.leaveWork.transport
      engine := s.leaveWork.engine
      due := s.leaveWork.due } := by
  simp only [leaveWork]
  generalize (if s.noFault then LineState.stopped else LineState.fault) = l
  simp only [setLine, syncMotor, copyCorrections, dueScan, dueAttempt]
  split <;> split <;> (try split) <;> (try split) <;> rfl

theorem leaveWork_tr (s : State) : TrSame s.transport s.leaveWork.transport := by
  simp only [leaveWork]
  exact setLine_tr _ _

/-! ### The position -/

/-- The ENCODER condition: dead reckoning from the position, every web record inspected, the cause in
FAULT. -/
theorem encoderArises_facts (s : State) :
    s.encoderArises = { s with
      transport := { s.transport with
        encoder := true, deadReckoning := some ⟨s.transport.position, s.transport.speedInUse, 0⟩ }
      cutter.web := s.cutter.web.map fun x => { x with inspect := true }
      ctl.faults := if s.ctl.line = .fault then s.ctl.faults.put true .encoder else s.ctl.faults } := by
  simp only [encoderArises]
  by_cases h : s.ctl.line = .fault
  · rw [if_pos (by simp [h]), if_pos h]
    exact addCause_in_fault { s with
      transport := { s.transport with
        encoder := true, deadReckoning := some ⟨s.transport.position, s.transport.speedInUse, 0⟩ }
      cutter.web := s.cutter.web.map fun x => { x with inspect := true } } .encoder h
  · rw [if_neg (by simp [h]), if_neg h]

theorem unthreadEmpty_facts (s : State) :
    s.unthreadEmpty =
      { s with transport := { s.transport with threaded := s.unthreadEmpty.transport.threaded } } := by
  simp only [unthreadEmpty]
  split
  · rfl
  · split <;> rfl

theorem consumeRoll_tr (s : State) :
    s.consumeRoll = { s with transport := s.consumeRoll.transport } ∧
      s.consumeRoll.transport.position = s.transport.position ∧
      s.consumeRoll.transport.probe = s.transport.probe := by
  simp only [consumeRoll]
  split
  · exact ⟨rfl, rfl, rfl⟩
  · next m _ =>
    rw [unthreadEmpty_facts]
    cases m <;> exact ⟨rfl, rfl, rfl⟩

theorem checkIndex_tr (s : State) :
    s.checkIndex.transport.position = s.transport.position ∧
      s.checkIndex.transport.probe = s.transport.probe ∧
      s.checkIndex.ctl.lastProbe = s.ctl.lastProbe ∧ s.checkIndex.now = s.now := by
  simp only [checkIndex]
  split
  · exact ⟨rfl, rfl, rfl, rfl⟩
  · split
    · simp only [mismatch]
      split
      · rw [encoderArises_facts]; exact ⟨rfl, rfl, rfl, rfl⟩
      · exact ⟨rfl, rfl, rfl, rfl⟩
    · exact ⟨rfl, rfl, rfl, rfl⟩

/-- Writing lines writes the engine and the end-of-frame event. -/
theorem writeLines_tr (s : State) :
    s.writeLines = { s with engine := s.writeLines.engine, due := s.writeLines.due } := by
  simp only [writeLines]
  split
  · rfl
  · split
    · rfl
    · split <;> rfl
  · split <;> rfl

theorem startPump_tr (s : State) : s.startPump = { s with monitor := s.startPump.monitor } := by
  simp only [startPump]
  split <;> rfl

theorem handOff_tr (s : State) (k : FrameKind) (o : Option OrderItem) (a : Nat) (b : Bool) :
    s.handOff k o a b = { s with monitor := (s.handOff k o a b).monitor } := by
  simp only [handOff]
  rw [startPump_tr]

theorem completePiece_tr (s : State) :
    s.completePiece = { s with
      cutter := s.completePiece.cutter
      monitor := s.completePiece.monitor
      due := s.completePiece.due } := by
  simp only [completePiece]
  split
  · rfl
  · split
    · rw [handOff_tr]; rfl
    · rfl

/-- A cut writes the cutter, the monitor and an attempt event. -/
theorem fireCut_tr (s : State) :
    s.fireCut = { s with
      cutter := s.fireCut.cutter, monitor := s.fireCut.monitor, due := s.fireCut.due } := by
  simp only [fireCut]
  rw [completePiece_tr]
  split <;> rfl

theorem tryCut_tr (s : State) :
    s.tryCut.transport.position = s.transport.position ∧
      s.tryCut.transport.probe = s.transport.probe ∧
      s.tryCut.ctl.lastProbe = s.ctl.lastProbe ∧ s.tryCut.now = s.now := by
  simp only [tryCut]
  split
  · split
    · rw [fireCut_tr]; exact ⟨rfl, rfl, rfl, rfl⟩
    · have h := addCause_tr { s with cutter.blade := .stuck } .cutter
      refine ⟨?_, ?_, ?_, ?_⟩
      · rw [h]
      · rw [h]
      · rw [addCause_facts]
      · rw [addCause_facts]
  · exact ⟨rfl, rfl, rfl, rfl⟩

/-- What follows a move of the position leaves the position, the probe and the time base. -/
theorem moveTo_tr (s : State) (p : Nat) :
    (s.moveTo p).transport.position = p ∧ (s.moveTo p).transport.probe = s.transport.probe ∧
      (s.moveTo p).ctl.lastProbe = s.ctl.lastProbe ∧ (s.moveTo p).now = s.now := by
  let a : State := { s with transport.position := p }
  have h1 := consumeRoll_tr a
  have h2 := checkIndex_tr a.consumeRoll
  have h3 := writeLines_tr a.consumeRoll.checkIndex
  have h4 := tryCut_tr a.consumeRoll.checkIndex.writeLines.judgeMarks
  have hj : ∀ t : State, t.judgeMarks.transport = t.transport ∧ t.judgeMarks.ctl = t.ctl ∧
      t.judgeMarks.now = t.now := fun _ => ⟨rfl, rfl, rfl⟩
  have e : s.moveTo p = a.consumeRoll.checkIndex.writeLines.judgeMarks.tryCut := rfl
  have hw : a.consumeRoll.checkIndex.writeLines.transport = a.consumeRoll.checkIndex.transport ∧
      a.consumeRoll.checkIndex.writeLines.ctl = a.consumeRoll.checkIndex.ctl ∧
      a.consumeRoll.checkIndex.writeLines.now = a.consumeRoll.checkIndex.now := by
    rw [h3]; exact ⟨rfl, rfl, rfl⟩
  rw [e]
  refine ⟨?_, ?_, ?_, ?_⟩
  · rw [h4.1, (hj _).1, hw.1, h2.1, h1.2.1]
  · rw [h4.2.1, (hj _).1, hw.1, h2.2.1, h1.2.2]
  · rw [h4.2.2.1, (hj _).2.1, hw.2.1, h2.2.2.1, h1.1]
  · rw [h4.2.2.2, (hj _).2.2, hw.2.2, h2.2.2.2, h1.1]

/-- The passing of time moves the time base. -/
theorem pass_now (s : State) (us : Nat) : (s.pass us).now = s.now + us := by
  simp only [pass]
  split
  · split
    · rw [(moveTo_tr _ _).2.2.2, elapse_now]
    · exact elapse_now s us
  · exact elapse_now s us

theorem passTo_now (s : State) (t : Nat) : (s.passTo t).now = max s.now (t * 1000) := by
  simp only [passTo]
  split
  · rw [pass_now]; omega
  · omega

/-- Under dead reckoning the position follows the running time (R114). -/
theorem pass_reckons (s : State) (us : Nat) (d : DeadReckoning) (h : s.reckons = true)
    (hd : s.transport.deadReckoning = some d) : s.pass us =
      (s.elapse us).moveTo (DeadReckoning.position { d with runUs := d.runUs + us }) := by
  have ht : (s.elapse us).transport.deadReckoning = some { d with runUs := d.runUs + us } := by
    simp only [elapse, h, if_true, hd, Option.map_some]
  simp only [pass, h, if_true, ht]

/-- The index check writes the transport, the web's inspect marks and the cause ENCODER. -/
theorem checkIndex_frame (s : State) :
    s.checkIndex = { s with
      transport := s.checkIndex.transport, cutter := s.checkIndex.cutter, ctl := s.checkIndex.ctl } := by
  simp only [checkIndex]
  split
  · rfl
  · split
    · simp only [mismatch]
      split
      · rw [encoderArises_facts]
      · rfl
    · rfl

/-- The blocks that a move of the position may write. -/
def PaperFrame (s t : State) : Prop :=
  t = { s with
    due := t.due, engine := t.engine, transport := t.transport, cutter := t.cutter
    monitor := t.monitor, ctl := t.ctl }

theorem tryCut_frame (s : State) : PaperFrame s s.tryCut := by
  simp only [PaperFrame, tryCut]
  split
  · split
    · rw [fireCut_tr]
    · rw [addCause_facts]
  · rfl

/-- A move of the position leaves all but the paper's and the line's blocks alone. -/
theorem moveTo_frame (s : State) (p : Nat) : PaperFrame s (s.moveTo p) := by
  let a : State := { s with transport.position := p }
  have h1 := (consumeRoll_tr a).1
  have h2 := checkIndex_frame a.consumeRoll
  have h3 := writeLines_tr a.consumeRoll.checkIndex
  have h4 := tryCut_frame a.consumeRoll.checkIndex.writeLines.judgeMarks
  have hm : PaperFrame s a.consumeRoll.checkIndex.writeLines.judgeMarks := by
    have hx : PaperFrame s a.consumeRoll.checkIndex.writeLines := by
      simp only [PaperFrame]
      generalize a.consumeRoll.checkIndex.writeLines = x at *
      rw [h3, h2, h1]
    simp only [PaperFrame, judgeMarks] at hx ⊢
    generalize a.consumeRoll.checkIndex.writeLines = x at *
    conv_lhs => rw [hx]
  have e : s.moveTo p = a.consumeRoll.checkIndex.writeLines.judgeMarks.tryCut := rfl
  rw [e]
  simp only [PaperFrame] at *
  generalize a.consumeRoll.checkIndex.writeLines.judgeMarks = y at *
  generalize y.tryCut = z at *
  conv_lhs => rw [h4]
  rw [hm]

/-- The passing of time leaves all but the time base and the paper's and the line's blocks alone. -/
theorem pass_frame (s : State) (us : Nat) : PaperFrame { s with now := s.now + us } (s.pass us) := by
  have e : s.elapse us =
      { s with now := s.now + us, transport := (s.elapse us).transport } := by
    simp only [elapse]
    split <;> rfl
  simp only [PaperFrame, State.pass]
  split
  · split
    · next d _ =>
      have hm := moveTo_frame (s.elapse us) d.position
      simp only [PaperFrame] at hm
      generalize (s.elapse us).moveTo d.position = x at *
      conv_lhs => rw [hm, e]
    · rw [e]
  · rw [e]

theorem passTo_frame (s : State) (t : Nat) :
    PaperFrame { s with now := max s.now (t * 1000) } (s.passTo t) := by
  by_cases h : s.now < t * 1000
  · have hp := pass_frame s (t * 1000 - s.now)
    rw [show s.now + (t * 1000 - s.now) = max s.now (t * 1000) by omega] at hp
    simp only [passTo, if_pos h]
    exact hp
  · simp only [passTo, if_neg h, PaperFrame]
    rw [Nat.max_eq_left (by omega)]

/-- Outside dead reckoning time passes alone. -/
theorem pass_still (s : State) (us : Nat) (h : s.reckons = false) :
    s.pass us = { s with now := s.now + us } := by
  simp only [pass, elapse, h, Bool.false_eq_true, if_false]

theorem passTo_still (s : State) (t : Nat) (h : s.reckons = false) :
    s.passTo t = { s with now := max s.now (t * 1000) } := by
  simp only [passTo]
  split
  · rw [pass_still s _ h]; congr 1; omega
  · rw [Nat.max_eq_left (by omega)]

theorem settle_position (b s : State) : (State.settle b s).transport.position = s.transport.position :=
  congrArg (·.transport.position) (settle_lasting b s)

theorem settle_now (b s : State) : (State.settle b s).now = s.now :=
  congrArg (·.now) (settle_lasting b s)

/-! ### Clear probe, roll, jams -/

/-- What a passed probe leaves (R115, R170). -/
theorem probePasses_facts (s : State) :
    s.probePasses.transport.probe = none ∧ s.probePasses.transport.encoder = false ∧
      s.probePasses.transport.deadReckoning = none ∧ s.probePasses.transport.indexRef = none ∧
      s.probePasses.transport.mismatches = 0 ∧ s.probePasses.ctl.lastProbe = .passed ∧
      s.probePasses.ctl.faults = { s.ctl.faults with encoder := false } ∧
      s.probePasses.transport.position = s.transport.position ∧
      s.probePasses.lasting =
        ({ s with transport := s.probePasses.transport, ctl := s.probePasses.ctl } : State).lasting := by
  let a : State := { s with
    transport.probe := none, transport.encoder := false, transport.deadReckoning := none
    transport.indexRef := none, transport.mismatches := 0, ctl.lastProbe := .passed }
  have h1 := syncMotor_tr a
  let b : State := a.syncMotor.setFaults (s.ctl.faults.put false .encoder)
  obtain ⟨h2, h3, h4, h5⟩ := setFaults_tr a.syncMotor (s.ctl.faults.put false .encoder)
  have hc : a.syncMotor.ctl = a.ctl := by
    simp only [syncMotor]
    split
    · rfl
    · split <;> rfl
  have e : s.probePasses = b.dueAttempt := rfl
  have ht : s.probePasses.transport = b.transport := by rw [e]; rfl
  have hctl : s.probePasses.ctl = b.ctl := by rw [e]; rfl
  rw [ht, hctl]
  refine ⟨by rw [h2, h1], by rw [h2, h1], by rw [h2, h1], by rw [h2, h1], by rw [h2, h1],
    by rw [h4, hc], by rw [h3]; rfl, by rw [h2, h1], ?_⟩
  have hl : s.probePasses.lasting =
      ({ a with ctl.faults := s.ctl.faults.put false .encoder } : State).lasting := by
    rw [e, dueAttempt_lasting, h5]
    have k0 : a.syncMotor.transport.lasting = a.transport.lasting :=
      congrArg (·.transport) (syncMotor_lasting a)
    have hs : a.syncMotor = { a with transport := a.syncMotor.transport } := by
      simp only [syncMotor]
      split
      · rfl
      · split <;> rfl
    conv_lhs => rw [hs]
    simp only [lasting, k0]
  have k1 : b.transport.lasting = a.transport.lasting := by
    rw [← ht]; exact congrArg (·.transport) hl
  have k2 : b.ctl.lasting =
      ({ a with ctl.faults := s.ctl.faults.put false .encoder } : State).ctl.lasting := by
    rw [← hctl]; exact congrArg (·.ctl) hl
  rw [hl]
  simp only [lasting, k1, k2]
  rfl

theorem mag_modMag (s : State) (f : Mag → Mag) (m : MagSlot) : (s.modMag f m).mag m = f (s.mag m) := by
  cases m <;> rfl

theorem abortFrame_facts (s : State) :
    s.abortFrame.wasteLast.transport = s.transport ∧ s.abortFrame.wasteLast.ctl = s.ctl ∧
      s.abortFrame.wasteLast.now = s.now ∧
      s.abortFrame.wasteLast.sched.request = s.sched.request := by
  simp only [abortFrame, wasteLast]
  split
  · exact ⟨rfl, rfl, rfl, rfl⟩
  · rw [spoil?_frame]; exact ⟨rfl, rfl, rfl, rfl⟩

/-- A paper end writes the slot's record, and what the abortion of a frame writes. -/
theorem takePaperEnd_facts (s : State) (m : MagSlot) :
    (s.takePaperEnd m).transport = (s.modMag (fun g =>
        { g with remaining := .mm s.transport.endLead, endSeen := true, carry := 0 }) m).transport ∧
      (s.takePaperEnd m).ctl = s.ctl ∧ (s.takePaperEnd m).now = s.now ∧
      (s.takePaperEnd m).sched.request = s.sched.request := by
  simp only [takePaperEnd]
  have h := abortFrame_facts (s.modMag (fun g =>
    { g with remaining := .mm s.transport.endLead, endSeen := true, carry := 0 }) m)
  split
  · split
    · obtain ⟨a, b, c, d⟩ := h
      rw [a, b, c, d]
      cases m <;> exact ⟨rfl, rfl, rfl, rfl⟩
    · cases m <;> exact ⟨rfl, rfl, rfl, rfl⟩
  · cases m <;> exact ⟨rfl, rfl, rfl, rfl⟩

/-- Losing head sheets shortens the sheet list and leaves the rest of the monitor. -/
theorem loseHeads_facts (n : Nat) : ∀ s : State,
    (s.loseHeads n).monitor = { s.monitor with sheets := s.monitor.sheets.drop n } ∧
      (s.loseHeads n).ctl = s.ctl ∧ (s.loseHeads n).now = s.now := by
  have one : ∀ s : State, s.loseHead.monitor = { s.monitor with sheets := s.monitor.sheets.drop 1 } ∧
      s.loseHead.ctl = s.ctl ∧ s.loseHead.now = s.now := by
    intro s
    simp only [loseHead]
    split
    · next h =>
      refine ⟨?_, rfl, rfl⟩
      rw [h]
      cases hm : s.monitor
      simp_all
    · next x rest h =>
      show (spoil? _ _).monitor = _ ∧ (spoil? _ _).ctl = _ ∧ (spoil? _ _).now = _
      rw [spoil?_frame, h]; exact ⟨rfl, rfl, rfl⟩
  induction n with
  | zero => intro s; exact ⟨rfl, rfl, rfl⟩
  | succ n ih =>
    intro s
    obtain ⟨a, b, c⟩ := ih s.loseHead
    obtain ⟨a', b', c'⟩ := one s
    simp only [loseHeads]
    refine ⟨?_, by rw [b, b'], by rw [c, c']⟩
    rw [a, a']
    simp

end State

/-! ### Marks -/

/-- The oldest record without a mark is settled, and the one before it changed, wherever it stands. -/
theorem settleMark_at (f g : WebRecord → WebRecord) (x : WebRecord) (post : List WebRecord)
    (hx : x.mark = .unseen) : ∀ pre : List WebRecord, (∀ y ∈ pre, y.mark ≠ .unseen) →
      settleMark f g (pre ++ x :: post) =
        (match pre.getLast? with
          | none => []
          | some y => pre.dropLast ++ [g y]) ++ f x :: post := by
  intro pre
  induction pre with
  | nil =>
    intro _
    cases post <;> simp [settleMark, hx]
  | cons a pre ih =>
    intro h
    have ha : a.mark ≠ .unseen := h a (by simp)
    cases pre with
    | nil => cases post <;> simp [settleMark, hx, ha]
    | cons b pre =>
      have hb : b.mark ≠ .unseen := h b (by simp)
      have := ih (fun y hy => h y (by simp [hy]))
      simp only [List.cons_append] at this ⊢
      rw [settleMark, if_neg (by simp [ha]), if_neg (by simp [hb]), this, List.getLast?_cons_cons]
      cases hg : (b :: pre).getLast? with
      | none => simp at hg
      | some y => simp

end Sys2Proof.Machine
end

