-- ==== Sys2Proof/Laws/Counters.lean ====
section
/-! SUPPORT. What the counter moves of an order, its return to FREE, its holds and its bins leave in the
record, in the flags and in the sorter; and the book that spoils leave, of one print, of lost sheets and of
the lost web. -/

namespace Sys2Proof.Machine

theorem modAt_getElem? {α : Type} (f : α → α) : ∀ (l : List α) (i j : Nat),
    (modAt f l i)[j]? = if i = j then l[j]?.map f else l[j]?
  | [], i, j => by simp [modAt]
  | a :: l, 0, 0 => by simp [modAt]
  | a :: l, 0, j + 1 => by simp [modAt]
  | a :: l, i + 1, 0 => by simp [modAt]
  | a :: l, i + 1, j + 1 => by simp [modAt, modAt_getElem? f l i j]

theorem total_append (a b : List Nat) : total (a ++ b) = total a + total b := by
  induction a with
  | nil => simp [total]
  | cons x a ih => simp only [List.cons_append, total, List.foldr] at *; omega

theorem countsAt_modCounts (o : Order) (item : Nat) (f : Counts → Counts) :
    (o.modCounts item f).countsAt item = (o.countsAt item).map f := by
  simp only [Order.countsAt, Order.modCounts]
  split
  · cases o.index <;> rfl
  · simp only [modAt_getElem?, if_true]
    cases o.items[item - 1]? <;> rfl

/-- A counter move writes the counters only. -/
theorem modCounts_rest (o : Order) (k : Nat) (f : Counts → Counts) :
    (o.modCounts k f).state = o.state ∧ (o.modCounts k f).holds = o.holds ∧
      (o.modCounts k f).bins = o.bins ∧ (o.modCounts k f).number = o.number ∧
      (o.modCounts k f).inspect = o.inspect := by
  simp only [Order.modCounts]
  split <;> exact ⟨rfl, rfl, rfl, rfl, rfl⟩

theorem total_modAt (g : Counts → Nat) (f : Counts → Counts) :
    ∀ (l : List Item) (k : Nat) (x : Item), l[k]? = some x →
      total (((modAt (fun y => { y with n := f y.n }) l k).map (·.n)).map g) + g x.n =
        total ((l.map (·.n)).map g) + g (f x.n)
  | [], k, x, h => by simp at h
  | y :: l, 0, x, h => by
    simp at h
    subst h
    simp [modAt, total]
    omega
  | y :: l, k + 1, x, h => by
    simp at h
    have := total_modAt g f l k x h
    simp [modAt, total] at *
    omega

/-- The sum of a counter over an order follows a move of one item's counters. -/
theorem sum_modCounts (o : Order) (item : Nat) (f : Counts → Counts) (g : Counts → Nat) (c : Counts)
    (h : o.countsAt item = some c) : (o.modCounts item f).sum g + g c = o.sum g + g (f c) := by
  simp only [Order.sum, Order.counts, List.map_append, total_append]
  by_cases hi : item = 0
  · simp only [Order.countsAt, hi, if_true] at h
    cases hx : o.index with
    | none => simp [hx] at h
    | some x =>
      simp [hx] at h
      subst h
      simp [Order.modCounts, hi, hx, total]
      omega
  · simp only [Order.countsAt, if_neg hi] at h
    cases hx : o.items[item - 1]? with
    | none => simp [hx] at h
    | some x =>
      simp [hx] at h
      subst h
      have := total_modAt g f o.items (item - 1) x hx
      simp only [Order.modCounts, if_neg hi]
      omega

namespace State

theorem freeOrder_same (s : State) (i : Nat) (h : i < s.book.records.length) :
    (s.freeOrder i).orderAt i = Order.free := by
  simp only [freeOrder]
  show (modOrder _ i _).orderAt i = _
  rw [modOrder_same]
  show i < (s.setOrderState i .free).book.records.length
  rw [setOrderState_records, modAt_length]
  exact h

/-- A print of a VOID order discarded: w to s, and the record FREE with the last one (R9, R18). -/
theorem discard_same (s : State) (i item : Nat) (h : i < s.book.records.length)
    (hv : (s.orderAt i).state = .void) (r : Order)
    (hr : r = (s.orderAt i).modCounts item fun n => { n with w := n.w - 1, s := n.s + 1 }) :
    (s.discard i item).orderAt i = if r.sum (·.w) = 0 then Order.free else r := by
  subst hr
  have hm := modOrder_same s
    (fun o => o.modCounts item fun n => { n with w := n.w - 1, s := n.s + 1 }) h
  simp only [State.discard, afterMove, moveCounts, hm, (modCounts_rest _ _ _).1, hv]
  split
  · rw [freeOrder_same]
    show i < (modAt _ _ _).length
    rw [modAt_length]
    exact h
  · exact hm

/-- A hold reason added writes the holds and the state of the record. -/
theorem addHold_same (s : State) (i : Nat) (r : Hold) (h : i < s.book.records.length) :
    ((s.addHold i r).orderAt i).items = (s.orderAt i).items ∧
      ((s.addHold i r).orderAt i).index = (s.orderAt i).index ∧
      ((s.addHold i r).orderAt i).holds = (s.orderAt i).holds.add r := by
  simp only [addHold]
  split
  · next hh =>
    refine ⟨rfl, rfl, ?_⟩
    cases r <;> (simp only [Holds.has] at hh; simp only [Holds.add]; rw [← hh])
  · have hm := modOrder_same s (fun o => { o with holds := o.holds.add r }) h
    split
    · rw [setOrderState_same]
      · rw [hm]; exact ⟨rfl, rfl, rfl⟩
      · show i < (modAt _ _ _).length
        rw [modAt_length]
        exact h
    · rw [hm]; exact ⟨rfl, rfl, rfl⟩

/-- Rejecting a sheet writes the count, the bin select and gate, and what REJECT_FULL writes (R158), the
events of a flush's end among it. -/
theorem rejectSheet_frame (s : State) :
    s.rejectSheet = { s with
      sorter := { s.sorter with
        reject := min 999 (s.sorter.reject + 1), select := 0, gate := some (s.now / 1000) }
      ctl := s.rejectSheet.ctl
      transport := s.rejectSheet.transport
      engine := s.rejectSheet.engine
      due := s.rejectSheet.due } ∧
    s.rejectSheet.ctl.faults =
      (if 199 ≤ s.sorter.reject then { s.ctl.faults with rejectFull := true } else s.ctl.faults) := by
  let u : State := { s with sorter := { s.sorter with
    reject := min 999 (s.sorter.reject + 1), select := 0, gate := some (s.now / 1000) } }
  have e : s.rejectSheet =
      (if 200 ≤ min 999 (s.sorter.reject + 1) then u.addCause .rejectFull else u) := rfl
  rw [e]
  by_cases h : 199 ≤ s.sorter.reject
  · rw [if_pos h, if_pos (by omega), addCause_facts]; exact ⟨rfl, rfl⟩
  · rw [if_neg h, if_neg (by omega)]; exact ⟨rfl, rfl⟩

end State

theorem modBins_one (t : Sorter) (f : Bin → Bin) (b : Nat) (h : 1 ≤ b) (k : b ≤ t.bins.length) :
    (t.modBins f [b]).bin b = f (t.bin b) := by
  simp only [Sorter.modBins, Sorter.bin, List.foldl, if_neg (by omega : ¬ b = 0)]
  rw [getD_modAt, if_pos]
  omega

theorem modBins_count (f : Bin → Bin) (hf : ∀ b, (f b).count = b.count) :
    ∀ (bs : List Nat) (t : Sorter) (b : Nat), ((t.modBins f bs).bin b).count = (t.bin b).count := by
  intro bs
  induction bs with
  | nil => intro t b; rfl
  | cons x bs ih =>
    intro t b
    by_cases hx : x = 0
    · have : t.modBins f (x :: bs) = t.modBins f bs := by simp [Sorter.modBins, hx]
      rw [this, ih]
    · have : t.modBins f (x :: bs) =
          ({ t with bins := modAt f t.bins (x - 1) } : Sorter).modBins f bs := by
        simp [Sorter.modBins, hx]
      rw [this, ih]
      simp only [Sorter.bin]
      split
      · rfl
      · rw [getD_modAt]
        split
        · next hh => rw [hf, hh.1]
        · rfl

namespace State

/-! ### What a spoil writes in the book rests on the book alone -/

theorem setOrderState_book_congr {s t : State} (h : t.book = s.book) (i : Nat) (st : OrderState) :
    (t.setOrderState i st).book = (s.setOrderState i st).book := by
  have ho : t.orderAt i = s.orderAt i := orderAt_congr (by rw [h]) i
  have hb : ∀ u : State, (u.setOrderState i st).book =
      ⟨(u.setOrderState i st).book.records, (u.setOrderState i st).book.queue, u.book.sequence⟩ := by
    intro u
    rw [← setOrderState_sequence u i st]
  rw [hb t, hb s, setOrderState_queue, setOrderState_queue, setOrderState_records, setOrderState_records, ho, h]

theorem modOrder_book_congr {s t : State} (h : t.book = s.book) (i : Nat) (f : Order → Order) :
    (t.modOrder i f).book = (s.modOrder i f).book := by
  simp only [modOrder_book, h]

theorem releasePaper1_book_congr {s t : State} (h : t.book = s.book) (i : Nat) :
    (t.releasePaper1 i).book = (s.releasePaper1 i).book := by
  have ho : t.orderAt i = s.orderAt i := orderAt_congr (by rw [h]) i
  simp only [releasePaper1, ho]
  split
  · have key : ∀ a b : State, b.book = a.book → (b.leaveHeld i).book = (a.leaveHeld i).book := by
      intro a b hm
      have ho' : b.orderAt i = a.orderAt i := orderAt_congr (by rw [hm]) i
      simp only [leaveHeld, ho']
      split
      · exact setOrderState_book_congr hm i _
      · exact hm
    exact key _ _ (modOrder_book_congr h i _)
  · exact h

/-- The book after a release of PAPER is that of the book before it (R22). -/
theorem releasePaper_book_congr {s t : State} (h : t.book = s.book) :
    t.releasePaper.book = s.releasePaper.book := by
  have key : ∀ (l : List Nat) {a b : State}, b.book = a.book →
      (l.foldl releasePaper1 b).book = (l.foldl releasePaper1 a).book := by
    intro l
    induction l with
    | nil => intro a b hab; exact hab
    | cons i l ih => intro a b hab; exact ih (releasePaper1_book_congr hab i)
  exact key _ h

theorem freeOrder_book_congr {s t : State} (h : t.book = s.book) (i : Nat) :
    (t.freeOrder i).book = (s.freeOrder i).book := by
  have hf : ∀ u : State, (u.freeOrder i).book =
      ((u.setOrderState i .free).modOrder i fun _ => Order.free).book := fun _ => rfl
  rw [hf, hf]
  exact modOrder_book_congr (setOrderState_book_congr h i _) i _

theorem discard_book_congr {s t : State} (h : t.book = s.book) (i item : Nat) :
    (t.discard i item).book = (s.discard i item).book := by
  have hm := modOrder_book_congr h i
    (fun o => o.modCounts item fun n => { n with w := n.w - 1, s := n.s + 1 })
  simp only [State.discard, moveCounts]
  generalize t.modOrder i _ = b at hm ⊢
  generalize s.modOrder i _ = a at hm ⊢
  have ho : b.orderAt i = a.orderAt i := orderAt_congr (by rw [hm]) i
  simp only [afterMove, ho]
  split
  · split
    · exact setOrderState_book_congr hm i _
    · exact hm
  · split
    · exact freeOrder_book_congr hm i
    · exact hm
  · exact hm

theorem addFault_book_congr {s t : State} (h : t.book = s.book) (i : Nat) :
    (t.addHold i .fault).book = (s.addHold i .fault).book := by
  have ho : t.orderAt i = s.orderAt i := orderAt_congr (by rw [h]) i
  have hm := modOrder_book_congr h i (fun o => { o with holds := o.holds.add .fault })
  simp only [addHold, ho]
  split
  · exact h
  · generalize t.modOrder i _ = b at hm ⊢
    generalize s.modOrder i _ = a at hm ⊢
    have hh : b.holdActs i .fault = a.holdActs i .fault := by
      have ho' : b.orderAt i = a.orderAt i := orderAt_congr (by rw [hm]) i
      simp only [holdActs, ho']
      cases (a.orderAt i).state <;> simp
    rw [hh]
    split
    · exact setOrderState_book_congr hm i _
    · exact hm

theorem spoilLive_book_congr {s t : State} (h : t.book = s.book) (i item : Nat) :
    (t.spoilLive i item).book = (s.spoilLive i item).book := by
  have key : ∀ a b : State, b.book = a.book →
      (if ((b.orderAt i).countsAt item).any (fun n => n.spoil == 4) then b.addHold i .fault
        else if (b.orderAt i).state == .draining then b.setOrderState i .queued else b).book =
      (if ((a.orderAt i).countsAt item).any (fun n => n.spoil == 4) then a.addHold i .fault
        else if (a.orderAt i).state == .draining then a.setOrderState i .queued else a).book := by
    intro a b hm
    have ho : b.orderAt i = a.orderAt i := orderAt_congr (by rw [hm]) i
    rw [ho]
    split
    · exact addFault_book_congr hm i
    · split
      · exact setOrderState_book_congr hm i _
      · exact hm
  exact key _ _ (modOrder_book_congr h i _)

/-- The book after a spoil is that of the book before it (R10). -/
theorem spoil_book_congr {s t : State} (h : t.book = s.book) (x : OrderItem) :
    (t.spoil x).book = (s.spoil x).book := by
  have hf : t.findLive x.number = s.findLive x.number := by simp only [findLive, h]
  simp only [State.spoil, hf]
  split
  · exact h
  · next i _ =>
    have ho : t.orderAt i = s.orderAt i := orderAt_congr (by rw [h]) i
    rw [ho]
    split
    · exact discard_book_congr h i _
    · exact spoilLive_book_congr h i x.item

theorem spoil?_book_congr {s t : State} (h : t.book = s.book) :
    ∀ x : Option OrderItem, (t.spoil? x).book = (s.spoil? x).book
  | none => h
  | some x => spoil_book_congr h x

theorem spoils_book_congr : ∀ (l : List OrderItem) {s t : State}, t.book = s.book →
    (l.foldl spoil t).book = (l.foldl spoil s).book
  | [], _, _, h => h
  | x :: l, _, _, h => spoils_book_congr l (spoil_book_congr h x)

/-- The book after an abort is that of the spoil of the frame's print (R90). -/
theorem abortFrame_book (s : State) {c : FrameContext} (h : s.frame? = some c) :
    s.abortFrame.book = (s.spoil? (c.target.map fun t => ⟨t.number, t.item⟩)).book := by
  simp only [abortFrame, h]
  exact spoil?_book_congr (s := s) (t := s.endFrame) rfl _

/-- The book after n lost sheets is that of the spoils of their prints, in order (R151). -/
theorem loseHeads_book : ∀ (n : Nat) (s : State),
    (s.loseHeads n).book =
      (((s.monitor.sheets.take n).filterMap (·.order)).foldl spoil s).book := by
  intro n
  induction n with
  | zero => intro s; rfl
  | succ n ih =>
    intro s
    simp only [loseHeads, ih]
    cases hs : s.monitor.sheets with
    | nil => simp only [loseHead, hs, List.take_nil]
    | cons x rest =>
      have hb : s.loseHead.book = (s.spoil? x.order).book := by
        simp only [loseHead, hs]
        exact spoil?_book_congr (s := s) (t := { s with monitor.sheets := rest }) rfl x.order
      have hm : s.loseHead.monitor.sheets = rest := by
        have := (loseHeads_facts 1 s).1
        change s.loseHead.monitor = _ at this
        rw [this, hs]; rfl
      rw [hm, List.take_succ_cons]
      cases ho : x.order with
      | none =>
        rw [ho] at hb
        rw [List.filterMap_cons_none ho]
        exact spoils_book_congr _ hb
      | some k =>
        rw [ho] at hb
        rw [List.filterMap_cons_some ho]
        exact spoils_book_congr _ hb

theorem filterMap_modAt_last : ∀ (l : List WebRecord),
    (modAt (fun x => { x with kind := .waste, order := none }) l (l.length - 1)).filterMap (·.order) =
      l.dropLast.filterMap (·.order)
  | [] => rfl
  | [_] => rfl
  | x :: y :: l => by
    have ih := filterMap_modAt_last (y :: l)
    simp only [List.length_cons, Nat.add_sub_cancel] at ih ⊢
    show List.filterMap _ (x :: modAt _ (y :: l) l.length) = List.filterMap _ (x :: (y :: l).dropLast)
    simp only [List.filterMap_cons, ih]

theorem dropWeb_book (s : State) :
    s.dropWeb.book = ((s.cutter.web.filterMap (·.order)).foldl spoil s).book := by
  have h : (((s.cutter.web.filterMap (·.order)).foldl spoil { s with cutter := s.cutter.drop }).book) =
      ((s.cutter.web.filterMap (·.order)).foldl spoil s).book := spoils_book_congr _ rfl
  simp only [dropWeb]
  split
  · exact h
  · exact h

/-- The book after the loss of the web is that of the spoils of its prints (R91, R124, R171). -/
theorem loseWeb_book (s : State) :
    s.cutOffEngine.dropWeb.book = (s.lostPrints.foldl spoil s).book := by
  rw [dropWeb_book]
  simp only [cutOffEngine, lostPrints, frame?]
  split
  · next h => simp only [h]
  · next c h =>
    have hf : s.frame? = some c := by simp only [frame?, h]
    have hb := abortFrame_book s hf
    have hw : s.abortFrame.cutter = s.cutter := by
      simp only [abortFrame, hf]
      have := spoil?_frame s.endFrame (c.target.map fun t => ⟨t.number, t.item⟩)
      rw [this]; rfl
    have hc : s.abortFrame.wasteLast.cutter.web.filterMap (·.order) =
        s.cutter.web.dropLast.filterMap (·.order) := by
      simp only [wasteLast, hw]
      exact filterMap_modAt_last _
    rw [hc]
    simp only [h]
    rw [List.foldl_append]
    refine spoils_book_congr _ ?_
    show s.abortFrame.book = _
    rw [hb]
    cases c.target <;> rfl
  · next a b h =>
    simp only [h]
    exact spoils_book_congr (s.cutter.web.filterMap (·.order)) (s := s)
      (t := { s with engine.work := .idle }) rfl

/-! ### Flags and bins of an order's entry into a state -/

/-- The flags an order's entry into a state raises on every port (R9, R11, R20, R21). -/
def OrderState.raised : OrderState → Half
  | .held => 2
  | .ready => 1
  | _ => 0

theorem setOrderState_flags (s : State) (i : Nat) (st : OrderState) (p : Port) :
    ((s.setOrderState i st).port p).flags = (s.port p).flags ||| OrderState.raised st := by
  simp only [setOrderState]
  cases (s.orderAt i).state <;> cases st <;> cases p <;>
    first | rfl | exact (BitVec.or_zero).symm

end State

theorem modBins_complete : ∀ (bs : List Nat) (t : Sorter) (b : Nat),
    (b ∈ bs → 1 ≤ b → b ≤ t.bins.length →
      ((t.modBins (fun x => { x with state := .complete }) bs).bin b).state = .complete) ∧
    ((t.bin b).state = .complete →
      ((t.modBins (fun x => { x with state := .complete }) bs).bin b).state = .complete) := by
  intro bs
  induction bs with
  | nil => intro t b; exact ⟨fun h => absurd h (by simp), id⟩
  | cons x bs ih =>
    intro t b
    by_cases hx : x = 0
    · have : t.modBins (fun x => { x with state := .complete }) (x :: bs) =
          t.modBins (fun x => { x with state := .complete }) bs := by simp [Sorter.modBins, hx]
      rw [this]
      refine ⟨fun h h1 h2 => ?_, (ih t b).2⟩
      rcases List.mem_cons.mp h with h | h
      · omega
      · exact (ih t b).1 h h1 h2
    · have e : t.modBins (fun x => { x with state := .complete }) (x :: bs) =
          (t.modBins (fun x => { x with state := .complete }) [x]).modBins
            (fun x => { x with state := .complete }) bs := by
        simp [Sorter.modBins, hx]
      have hl : (t.modBins (fun x => { x with state := .complete }) [x]).bins.length = t.bins.length := by
        simp [Sorter.modBins, hx]
      rw [e]
      refine ⟨fun h h1 h2 => ?_, fun h => (ih _ b).2 ?_⟩
      · by_cases hb : b = x
        · subst hb
          exact (ih _ b).2 (by rw [modBins_one t _ b h1 h2])
        · rcases List.mem_cons.mp h with h | h
          · exact absurd h hb
          · exact (ih _ b).1 h h1 (by rw [hl]; exact h2)
      · simp only [Sorter.modBins, Sorter.bin, List.foldl, if_neg hx] at h ⊢
        split at h
        · cases h
        · next hb =>
          rw [if_neg hb, getD_modAt]
          split
          · rfl
          · exact h

/-- An order that enters READY has its bins COMPLETE (R9, R159). -/
theorem State.setOrderState_ready_bins (s : State) (i : Nat) (h : i < s.book.records.length) (b : Nat)
    (hb : b ∈ (s.orderAt i).bins) (h1 : 1 ≤ b) (h2 : b ≤ s.sorter.bins.length) :
    ((s.setOrderState i .ready).sorter.bin b).state = .complete := by
  have hm := State.modOrder_same s (fun o => { o with state := .ready }) h
  have e : (s.setOrderState i .ready).sorter =
      s.sorter.modBins (fun x => { x with state := .complete }) (s.orderAt i).bins := by
    simp only [State.setOrderState, State.enterState, State.completeBins]
    have : ∀ old : OrderState,
        (State.leaveState (s.modOrder i fun o => { o with state := .ready }) i old).sorter = s.sorter ∧
        ((State.leaveState (s.modOrder i fun o => { o with state := .ready }) i old).orderAt i).bins =
          (s.orderAt i).bins := by
      intro old
      have : ((s.modOrder i fun o => { o with state := .ready }).orderAt i).bins = (s.orderAt i).bins := by
        rw [hm]
      cases old <;> exact ⟨rfl, this⟩
    have hh := this (s.orderAt i).state
    show (Sorter.modBins _ _ _) = _
    have h3 : ∀ u : State, (u.raise .orderReady).sorter = u.sorter := fun _ => rfl
    rw [h3, hh.1, hh.2]
  rw [e]
  exact (modBins_complete _ _ b).1 hb h1 h2

end Sys2Proof.Machine
end

