-- ==== Sys2Proof/Laws/Memory.lean ====
section
/-! SUPPORT. The DRAM as memory: reading after writing, and the canonical form kept by every write. -/

namespace Sys2Proof.Machine

/-- Every address of a canonical memory lies at or above its head. -/
theorem Memory.wf_tail {x : Nat} {b : Byte} {rest : List Host.Cell}
    (h : Memory.wf ((x, b) :: rest) = true) :
    b ≠ Memory.unlisted ∧ (∀ c, rest.head? = some c → x < c.1) ∧ Memory.wf rest = true := by
  simp only [Memory.wf, Bool.and_eq_true, bne_iff_ne, Option.all_eq_true, decide_eq_true_eq] at h
  exact ⟨h.1.1, h.1.2, h.2⟩

theorem Memory.wf_cons {x : Nat} {b : Byte} {rest : List Host.Cell} (hb : b ≠ Memory.unlisted)
    (hx : ∀ c, rest.head? = some c → x < c.1) (hr : Memory.wf rest = true) :
    Memory.wf ((x, b) :: rest) = true := by
  simp only [Memory.wf, Bool.and_eq_true, bne_iff_ne, Option.all_eq_true, decide_eq_true_eq]
  exact ⟨⟨hb, hx⟩, hr⟩

/-- The head of a memory after a write is the address written or the head from before. -/
theorem Memory.head_write (m : List Host.Cell) (a : Nat) (b : Byte) (n : Nat) (ha : n < a)
    (h : ∀ c, m.head? = some c → n < c.1) (hwf : Memory.wf m = true) :
    ∀ c, (Memory.write m a b).head? = some c → n < c.1 := by
  cases m with
  | nil =>
    intro c hc
    simp only [Memory.write] at hc
    split at hc
    · simp at hc
    · simp only [List.head?_cons, Option.some.injEq] at hc
      subst hc; exact ha
  | cons y rest =>
    obtain ⟨x, d⟩ := y
    have hx : n < x := h (x, d) rfl
    have ht := Memory.wf_tail hwf
    intro c hc
    simp only [Memory.write] at hc
    split at hc
    · split at hc
      · exact h c hc
      · simp only [List.head?_cons, Option.some.injEq] at hc
        subst hc; exact ha
    · split at hc
      · split at hc
        · exact Nat.lt_trans hx (ht.2.1 c hc)
        · simp only [List.head?_cons, Option.some.injEq] at hc
          subst hc; exact ha
      · simp only [List.head?_cons, Option.some.injEq] at hc
        subst hc; exact hx

/-- A write keeps the canonical form. -/
theorem Memory.wf_write (m : List Host.Cell) (a : Nat) (b : Byte) (h : Memory.wf m = true) :
    Memory.wf (Memory.write m a b) = true := by
  induction m with
  | nil =>
    simp only [Memory.write]
    split
    · rfl
    · next hb => exact Memory.wf_cons hb (fun _ hc => by simp at hc) rfl
  | cons y rest ih =>
    obtain ⟨x, d⟩ := y
    have ht := Memory.wf_tail h
    simp only [Memory.write]
    split
    · next hlt =>
      split
      · exact h
      · next hb => exact Memory.wf_cons hb (fun c hc => by
          simp only [List.head?_cons, Option.some.injEq] at hc
          subst hc; exact hlt) h
    · next hge =>
      split
      · next heq =>
        subst heq
        split
        · exact ht.2.2
        · next hb => exact Memory.wf_cons hb ht.2.1 ht.2.2
      · next hne =>
        exact Memory.wf_cons ht.1 (Memory.head_write rest a b x (by omega) ht.2.1 ht.2.2)
          (ih ht.2.2)

/-- Below the head of a canonical memory every address is unlisted. -/
theorem Memory.read_below (m : List Host.Cell) (h : Memory.wf m = true) (a : Nat)
    (ha : ∀ c, m.head? = some c → a < c.1) : Memory.read m a = Memory.unlisted := by
  induction m with
  | nil => rfl
  | cons y rest ih =>
    obtain ⟨x, d⟩ := y
    have hx : a < x := ha (x, d) rfl
    have ht := Memory.wf_tail h
    simp only [Memory.read]
    rw [if_neg (by omega)]
    exact ih ht.2.2 fun c hc => Nat.lt_trans hx (ht.2.1 c hc)

/-- A read after a write to a canonical memory. -/
theorem Memory.read_write (m : List Host.Cell) (h : Memory.wf m = true) (a : Nat) (b : Byte) (x : Nat) :
    Memory.read (Memory.write m a b) x = if x = a then b else Memory.read m x := by
  induction m with
  | nil =>
    simp only [Memory.write]
    split
    · next hb => split <;> simp [Memory.read, hb]
    · simp only [Memory.read]
      by_cases hx : x = a
      · simp [hx]
      · rw [if_neg (Ne.symm hx), if_neg hx]
  | cons y rest ih =>
    obtain ⟨k, d⟩ := y
    have ht := Memory.wf_tail h
    simp only [Memory.write]
    split
    · next hlt =>
      split
      · next hb =>
        split
        · next hx =>
          rw [hx, hb]
          exact Memory.read_below _ h a fun c hc => by
            simp only [List.head?_cons, Option.some.injEq] at hc
            subst hc; exact hlt
        · rfl
      · by_cases hx : x = a
        · simp [Memory.read, hx]
        · rw [if_neg hx, Memory.read, if_neg (Ne.symm hx)]
    · next hge =>
      split
      · next heq =>
        subst heq
        split
        · next hb =>
          by_cases hx : x = a
          · rw [if_pos hx, hx, hb]
            exact Memory.read_below rest ht.2.2 a ht.2.1
          · rw [if_neg hx, Memory.read, if_neg (Ne.symm hx)]
        · by_cases hx : x = a
          · simp [Memory.read, hx]
          · rw [if_neg hx, Memory.read, if_neg (Ne.symm hx), Memory.read, if_neg (Ne.symm hx)]
      · next hne =>
        simp only [Memory.read]
        by_cases hk : k = x
        · rw [if_pos hk, if_pos hk, if_neg (by omega)]
        · rw [if_neg hk, if_neg hk, ih ht.2.2]

/-- Storing a byte of a load keeps the DRAM canonical. -/
theorem State.storeByte_wf (s : State) (pages : List Nat) (k : Nat) (b : Byte)
    (h : Memory.wf s.images.dram = true) : Memory.wf (s.storeByte pages k b).images.dram = true := by
  unfold State.storeByte
  split
  · exact Memory.wf_write _ _ _ h
  · exact h

/-- Taking a word keeps the DRAM canonical. -/
theorem State.takeWord_wf (s : State) (l : Load) (x : ImageSlot) (z : ImageSize) (w : Half)
    (h : Memory.wf s.images.dram = true) : Memory.wf (s.takeWord l x z w).images.dram = true := by
  unfold State.takeWord
  simp only
  split
  · exact storeByte_wf _ _ _ _ (storeByte_wf _ _ _ _ h)
  · exact storeByte_wf _ _ _ _ h

/-- The DRAM at reset is canonical. -/
theorem State.reset_dram_wf : Memory.wf State.reset.images.dram = true := rfl

end Sys2Proof.Machine
end

