-- ==== Sys2Proof/Tests/Slice0.lean ====
section
/-! SUPPORT. Tests: the checks of well-formedness refuse an ill-formed term each; values of the spec's worked
examples; and for every statement with hypotheses a state and operands that meet them, at the ends of the
ranges. -/

namespace Sys2Proof.Tests

open Sys2Proof.Machine Sys2Proof.Machine.State

/-! ### Small states -/

/-- A request header of each port. -/
def hO : Hdr := ⟨.order, 1⟩
def hT : Hdr := ⟨.till, 2⟩
def hL : Hdr := ⟨.line, 3⟩

/-- Counters: quantity 10, delivered, in flight, pending, skipped, spoil count. -/
def cnt (d w p s spoil : Nat) : Counts := ⟨10, 0, d, w, p, s, spoil⟩

/-- An item of image slot 3 and product 2. -/
def item (n : Counts) : Item := ⟨3, 2, ⟨false, false⟩, false, .all 0, n⟩

/-- The lock of a sheet of base price 35 each. -/
def lock0 : Lock :=
  { generation := 1, entries := [⟨2, 10, 35, ⟨102, 152, .any⟩⟩], indexGeom := none
    globals := Globals.powerOn, quote := ⟨350, 0, 0, 350, 0, 350, 350⟩ }

/-- Order 7 in a state, with one item and no bins. -/
def order (st : OrderState) (n : Counts) : Order :=
  { Order.free with number := 7, state := st, items := [item n], sequence := some 1, lock := some lock0 }

/-- Order 7 while OPEN. -/
def openOrder : Order := { order .opened (cnt 0 0 10 0 0) with sequence := none, lock := none }

/-- A book whose record 0 is taken; sequence 1 has been given. -/
def withOrder (o : Order) : State :=
  { State.reset with
    book := ⟨o :: List.replicate 63 Order.free, if o.state == .queued then [0] else [], 1⟩ }

/-- Image slot 3 LOADED with the frame of product 2. -/
def loaded (s : State) : State :=
  { s with images := s.images.modSlot 3 fun x => { x with state := .loaded, size := some ⟨2040, 3040⟩ } }

/-- A price table in which product 2 is enabled. -/
def priced (s : State) : State :=
  { s with
    prices.active.products :=
      modAt (fun _ => ⟨true, ⟨102, 152, .any⟩, 35, [⟨50, 29⟩]⟩) s.prices.active.products 2 }

/-- A frame of order 7, item 1, on record 0, at line `next`. -/
def context (next : Nat) : FrameContext :=
  { kind := .print, target := some ⟨7, 0, 1⟩, slot := some 3, mirror := ⟨false, false⟩, rotate := false
    trims := .all 0, cols := 2040, lines := 3040, surface := .gloss, start := 0, next := next
    corr := .all Corr.zero, bpEnable := false, bpStart := 100, bpStop := 400, bpSeq := 0, plan := [] }

/-- A web record of order 7. -/
def web (mark : Mark) (leading : Bool) : WebRecord :=
  { kind := .print, order := some ⟨7, 1⟩, start := 0, span := 6128, expected := 11616, area := 155
    inspect := false, mark := mark, cut := none, leading := leading }

/-- A frame under way. -/
def exposing (s : State) : State :=
  { s with engine.work := .frame (context 0), ctl.line := .exposing, ctl.runEnable := true
           cutter.web := [web .unseen false] }

/-- A sheet of order 7, due at 380 s. -/
def sheet (o : Option OrderItem) : Sheet := ⟨.print, o, 0, 380000, 155, false⟩

/-- Sheets in the processor. -/
def withSheets (l : List Sheet) (s : State) : State := { s with monitor.sheets := l }

/-- A magazine of 102 mm gloss with 10 m in slot M1, threaded. -/
def threaded : State :=
  { State.reset with
    transport.threaded := some .m1
    transport.m1 := { Mag.powerOn true 2 false with
      debounced := true, ctx := some ⟨102, .gloss, 0⟩, remaining := .mm 10000 } }

/-! ### Well-formedness -/

theorem test_curve_of_255_levels : Instr.wellFormed (.curveLoad hL 1 0 (List.replicate 255 0)) = false := by
  decide +kernel
theorem test_curve_of_256_levels : Instr.wellFormed (.curveLoad hL 1 0 (List.replicate 256 0)) = true := by
  decide +kernel
theorem test_drive_of_129_codes : Instr.wellFormed (.driveLoad hL 0 (List.replicate 129 0)) = false := by
  decide +kernel
theorem test_reading_beyond_the_head :
    Instr.wellFormed (.calibrationComplete ⟨2048, [⟨6144, .r, 0⟩]⟩) = false := by decide
theorem test_reading_of_the_last_element :
    Instr.wellFormed (.calibrationComplete ⟨2048, [⟨6143, .b, 0⟩]⟩) = true := by decide
theorem test_empty_frame : Instr.wellFormed (.malformedRequestFrame .line [] true) = false := by decide
theorem test_reply_read_is_no_frame :
    Instr.wellFormed (.malformedRequestFrame .line [0, 1, 2] true) = false := by decide
theorem test_good_frame_is_not_malformed :
    Instr.wellFormed (.malformedRequestFrame .line [19, 1, 0, 0] false) = false := by decide
theorem test_cut_frame_is_malformed :
    Instr.wellFormed (.malformedRequestFrame .line [19, 1, 0, 0] true) = true := by decide

/-! ### Values of the spec's worked examples -/

/-- R39: product 2 of the worked table at and around its tiers. -/
theorem test_tier_selection :
    unitPrice 35 [⟨50, 29⟩, ⟨100, 25⟩, ⟨250, 19⟩] 49 = 35 ∧
    unitPrice 35 [⟨50, 29⟩, ⟨100, 25⟩, ⟨250, 19⟩] 50 = 29 ∧
    unitPrice 35 [⟨50, 29⟩, ⟨100, 25⟩, ⟨250, 19⟩] 250 = 19 := by decide

/-- R80: the power-on curve at v = 0, 128 and 255. -/
theorem test_power_on_curve :
    powerOnCurve.getD 0 0 = 127 ∧ powerOnCurve.getD 128 0 = 63 ∧ powerOnCurve.getD 255 0 = 0 := by
  decide

/-- 4.4: the worked pixel; and the two ends of the codes of an image element. -/
theorem test_worked_pixel :
    pixelCode (List.replicate 129 57) (List.replicate 60 412) 4 (-2) 12 1075 128 = 445 ∧
    pixelCode [0] [0] 0 0 0 1024 0 = 8 ∧ pixelCode [0] [1016] 0 0 63 2047 0 = 1015 := by decide

/-- R77: the worked example of a rotated and mirrored source pixel, and its place in the DRAM pages. -/
theorem test_source_pixel :
    printSource { context 0 with mirror := ⟨false, true⟩, rotate := true } 1000 0 = (3039, 1039) ∧
    pageAddress (List.range 200) (3 * (1039 * 3040 + 3039)) = some (144 * 65536 + 47613) := by decide

/-- 5.3: the worked trims. -/
theorem test_worked_trim : newTrim 2048 2048 = 1024 ∧ newTrim 2048 1950 = 1075 ∧ newTrim 2048 0 = 2047 := by
  decide

/-- 2.7: the quote of order 4711, express with promo 100 under the worked globals. -/
theorem test_worked_quote :
    breakdown [29 * 60, 89 * 12] 150 ⟨250, 200, 150, 5, 300, 800, 5⟩ true 100 =
      ⟨2958, 740, 370, 3328, 266, 3594, 3595⟩ ∧
    (breakdown [29 * 55, 89 * 12] 150 ⟨250, 200, 150, 5, 300, 800, 5⟩ true 100).f = 3415 := by decide

/-- R155: 101 prints need two bins. -/
theorem test_bin_need :
    (order .queued ⟨100, 0, 0, 0, 100, 0, 0⟩).need = 1 ∧
    (order .queued ⟨101, 0, 0, 0, 101, 0, 0⟩).need = 2 := by decide

/-- R118: the code strip of a 102 mm matte roll with serial 100, and an invalid width code. -/
theorem test_code_strip :
    stripContext 0x1912 = some ⟨102, .matte, 100⟩ ∧ stripContext 0x1900 = none := by decide

/-! ### Hypotheses met: ports and invariants -/

/-- Dead reckoning in force with no command waiting: the speed is 4 counts a µs. -/
def reckoning : State :=
  { State.reset with
    transport := { State.reset.transport with
      encoder := true, deadReckoning := some ⟨0, 4000000, 0⟩, motor := true, position := 0 }
    ctl.line := .exposing }

theorem test_wit_StepTakesTheFrontCommand :
    State.reset.pending = [] ∧ State.reset.reckons = false ∧ reckoning.pending = [] ∧ reckoning.reckons = true ∧
    reckoning.transport.deadReckoning = some ⟨0, 4000000, 0⟩ ∧ reckoning.transport.encoder = true ∧
    (match step reckoning with
      | .next t => decide (t.transport.position = 4 ∧ t.now = 1 ∧
          t.transport.deadReckoning = some ⟨0, 4000000, 1⟩)
      | _ => false) = true := by decide

/-- A request taken and answered, data out 0 throughout. -/
theorem test_wit_EveryRequestIsAnswered :
    encodeParams (.flagsEnable hL 0x3fff) = some (52, hL, [0xff, 0x3f]) ∧
    encodeParams (.itemSkip hL 65535 16) = some (42, hL, [0xff, 0xff, 16]) ∧
    (match exec (.flagsEnable hL 0x3fff) State.reset with
      | .next t => t.dataOut .line == List.replicate 48 false && (t.port .line).holder.isSome
      | _ => false) = true := by decide

/-- Each role of R179 closed at the two ends of its codes. -/
theorem test_wit_EveryRequestIsAnswered_closed :
    (encodeParams (.orderOpen hT ⟨1, 0, 0, 0, 0⟩)).any (fun x => x.1 == 1) = true ∧ hT.port ∉ requestRoles 1 ∧
    encodeParams (.orderDiscard hT 7) = some (8, hT, [7, 0]) ∧ hT.port ∉ requestRoles 8 ∧
    hO.port ∉ requestRoles 9 ∧ hL.port ∉ requestRoles 15 ∧ hO.port ∉ requestRoles 16 ∧
    hO.port ∉ requestRoles 17 ∧ hL.port ∉ requestRoles 18 ∧
    encodeParams (.lineRun hO) = some (19, hO, []) ∧ hO.port ∉ requestRoles 19 ∧ hT.port ∉ requestRoles 43 := by
  decide

/-- An empty holder, a holder read to its last byte, and one read short of it. -/
theorem test_wit_PortTransfersAnswerAndEmpty :
    frameMalformed [19] false = true ∧ frameMalformed [19, 1, 0, 0] true = true ∧
    frameMalformed [53, 1, 0, 0] false = true ∧ (19 : Byte).toNat ≠ replyReadCode ∧
    (State.reset.port .line).holder = none ∧
    ((State.reset.place hL 19 .ok [5]).port .line).holder = some ⟨.ok, 3, 19, [5]⟩ ∧
    (State.replyBytes ⟨.ok, 3, 19, [5]⟩).length = 6 := by decide

theorem test_wit_RequestFrameRoundTrip :
    Instr.wellFormed (.lineRun hL) = true ∧ encodeParams (.lineRun hL) = some (19, hL, []) ∧
    requestFrame (.lineRun hL) = some [19, 3, 0, 0] ∧
    parseTransfer .line [19, 3, 0, 0] false = some (.lineRun hL) := by decide

/-- Masks with and without a bit that names no flag; the level flags' conditions absent at reset and present;
attention with a flag enabled and with one that is not. -/
theorem test_wit_FlagRequestsActOnTheirOwnPort :
    (0x3fff : Half) &&& 0xc000 = 0 ∧ (0x4000 : Half) &&& 0xc000 ≠ 0 ∧ (0x8000 : Half) &&& 0xc000 ≠ 0 ∧
    State.reset.conditionWord = 0 ∧
    ({ State.reset with
      ctl.faults := { FaultSet.none with head := true }, ctl.line := .standby
      sched.queueBlocked := true, sorter.reject := 1
      transport := { threaded.transport with
        m1 := { threaded.transport.m1 with remaining := .mm 2999 } } } : State).conditionWord = 0x3e00 ∧
    ({ threaded with transport.m1 := { threaded.transport.m1 with endSeen := true, remaining := .mm 0 } } :
      State).conditionWord = 0x0400 ∧
    ({ State.reset with sorter := State.reset.sorter.modBins (fun _ => ⟨.purge, none, 1⟩) [24] } :
      State).conditionWord = 0x0800 ∧
    State.attention { State.reset with ports.line := ⟨none, 0x0001, 0x0001, []⟩ } .line = true ∧
    State.attention { State.reset with ports.line := ⟨none, 0x0001, 0x3ffe, []⟩ } .line = false := by
  decide

theorem test_wit_ReadingRequestsChangeNothing :
    (withOrder openOrder).findLive 7 = some 0 ∧ (withOrder openOrder).findLive 8 = none ∧
    orderStateOf 7 = some .void ∧ orderStateOf 8 = none ∧ orderStateOf 0 = none ∧
    (1 : Byte).toNat ≤ 1 ∧ 1 < (2 : Byte).toNat ∧ (15 : Byte).toNat ≤ 15 ∧ (16 : Byte).toNat = 16 ∧
    16 < (17 : Byte).toNat := by decide

/-- The data of a state after an image byte has been stored. -/
def storing : State := { State.reset with images.dram := [(5, 1)], pending := [.lineRun hL] }

theorem no_pages (n : Nat) : (List.replicate n ImageSlot.free).flatMap (·.pages) = [] :=
  List.flatMap_eq_nil_iff.mpr fun x h => by rw [List.eq_of_mem_replicate h]; rfl

theorem test_wit_StoredDataStaysSound : StoreSound storing ∧ ∃ t, step storing = .next t := by
  have hp : storing.images.allocated = [] := no_pages 512
  refine ⟨⟨by decide +kernel, by decide +kernel, by decide, by decide, by decide +kernel, by decide +kernel,
    by decide +kernel, by decide +kernel, ?_⟩, ⟨_, rfl⟩⟩
  simp only [ImageStore.pagesSound, ImageStore.freePages, hp]
  simp [Config.dramPages]

/-- A machine at rest with a command waiting, and one under dead reckoning. -/
theorem test_wit_EveryStepLeavesTheMachineAtRest :
    AtRest { State.reset with pending := [.lineRun hL] } ∧
    AtRest { reckoning with ctl.standbyTimer := none, engine.presented := .zero } ∧
    ∃ t, step { State.reset with pending := [.lineRun hL] } = .next t := by
  refine ⟨⟨rfl, by decide, by decide, by decide, by decide, fun p => by cases p <;> decide, by decide, by decide,
    fun d h => ?_⟩, ⟨rfl, by decide, by decide, by decide, by decide, fun p => by cases p <;> decide, by decide,
    by decide, fun d h => ?_⟩, ⟨_, rfl⟩⟩
  · cases h
  · cases h
    exact ⟨by decide, fun _ => by decide⟩

theorem getD_replicate (n i : Nat) : (List.replicate n Order.free).getD i Order.free = Order.free := by
  rw [List.getD_eq_getElem?_getD, List.getElem?_replicate]
  split <;> rfl

theorem withOrder_at (o : Order) (i : Nat) :
    (withOrder o).orderAt i = if i = 0 then o else Order.free := by
  cases i with
  | zero => rfl
  | succ i => exact getD_replicate 63 i

/-- A book with one order, QUEUED and listed or in another state and not listed, is sound. -/
theorem withOrder_sound (o : Order) (hn : o.number ≠ 0) (hs : o.sequence = some 1) :
    BookSound (withOrder o) := by
  have only : ∀ i, (withOrder o).orderAt i ≠ Order.free → i = 0 := fun i h => by
    rw [withOrder_at] at h
    by_cases hi : i = 0
    · exact hi
    · exact absurd (if_neg hi) h
  have st : ∀ i, ∀ x : OrderState, x ≠ .free → ((withOrder o).orderAt i).state = x → i = 0 :=
    fun i x hx h => only i fun e => by rw [e] at h; exact hx h.symm
  have lv : ∀ i, ((withOrder o).orderAt i).live = true → i = 0 :=
    fun i h => only i fun e => by rw [e] at h; exact absurd h (by decide)
  have sq : ∀ i n, ((withOrder o).orderAt i).sequence = some n → i = 0 :=
    fun i n h => only i fun e => by rw [e] at h; exact absurd h (by simp [Order.free])
  have at0 : (withOrder o).orderAt 0 = o := rfl
  refine ⟨rfl, ?_, fun i => ?_, ?_, fun i j a b => ?_, fun i h => ?_, fun i j a b _ => ?_, fun i h => ?_,
    fun i n h => ?_, fun i j n a b => ?_⟩
  · show (if o.state == .queued then [0] else []).Nodup
    split <;> simp
  · show i ∈ (if o.state == .queued then [0] else []) ↔ _
    by_cases h : o.state = .queued
    · simp only [h, beq_self_eq_true, if_true, List.mem_singleton]
      exact ⟨fun e => by rw [e, at0, h], fun e => st i .queued (by simp) e⟩
    · rw [if_neg (by simpa using h)]
      refine ⟨fun e => by simp at e, fun e => ?_⟩
      have := st i .queued (by simp) e
      rw [this, at0] at e
      exact absurd e h
  · show (if o.state == .queued then [0] else []).Pairwise _
    split <;> simp
  · rw [st i .active (by simp) a, st j .active (by simp) b]
  · have hi := lv i h
    rw [hi, at0]
    exact hn
  · rw [lv i a, lv j b]
  · have hi := lv i (committed_live h)
    rw [hi, at0, hs]; rfl
  · have hi := sq i n h
    rw [hi, at0, hs] at h
    show n ≤ 1
    simp at h
    omega
  · rw [sq i n a, sq j n b]

/-- A sound book with its one order QUEUED, and one with it READY. -/
theorem test_wit_OrderBookStaysSound :
    BookSound (withOrder (order .queued (cnt 0 0 10 0 0))) ∧
    BookSound (withOrder (order .ready (cnt 10 0 0 0 0))) ∧
    (withOrder (order .queued (cnt 0 0 10 0 0))).book.queue = [0] :=
  ⟨withOrder_sound _ (by decide) rfl, withOrder_sound _ (by decide) rfl, rfl⟩

/-- Order 7 DRAINING with nine prints in bin 1 and one on the web. -/
def inFlight : State :=
  { withOrder { order .draining (cnt 9 1 0 0 0) with started := true, bins := [1] } with
    cutter.web := [web .unseen false], sorter.bins := ⟨.filling, some 7, 9⟩ :: List.replicate 23 Bin.free }

theorem inFlight_at (i : Nat) : inFlight.orderAt i =
    if i = 0 then { order .draining (cnt 9 1 0 0 0) with started := true, bins := [1] } else Order.free :=
  withOrder_at _ i

theorem inFlight_bin (b : Nat) : inFlight.sorter.bin b = if b = 1 then ⟨.filling, some 7, 9⟩ else Bin.free := by
  match b with
  | 0 => rfl
  | 1 => rfl
  | b + 2 =>
    show (List.replicate 23 Bin.free).getD b Bin.free = Bin.free
    rw [List.getD_eq_getElem?_getD, List.getElem?_replicate]
    split <;> rfl

/-- A property of every record, shown of the order and of a FREE record. -/
theorem inFlight_all (P : Order → Prop)
    (h : P { order .draining (cnt 9 1 0 0 0) with started := true, bins := [1] }) (k : P Order.free) (i : Nat) :
    P (inFlight.orderAt i) := by
  rw [inFlight_at]
  split
  · exact h
  · exact k

theorem test_wit_CountersAlwaysBalance : BookSound inFlight ∧ CountsSound inFlight ∧ ∃ t, step inFlight = .next t := by
  have hc : inFlight.carriers = [⟨7, 1⟩] := rfl
  refine ⟨(withOrder_sound _ (by decide) rfl).of_book rfl, ⟨?_, ?_, ?_, ?_, ?_, ?_, ?_, ?_⟩, ⟨_, rfl⟩⟩
  · exact inFlight_all (fun o => o.live = true → ∀ n ∈ o.counts, n.d + n.w + n.p + n.s = n.q + n.c) (by decide)
      (by decide)
  · intro i k n hl hk
    rw [hc]
    rw [inFlight_at] at hl hk ⊢
    split at hl
    · next hi =>
      rw [if_pos hi] at hk ⊢
      match k with
      | 0 => cases hk
      | 1 => cases hk; rfl
      | k + 2 => cases hk
    · exact absurd hl (by decide)
  · intro x hx
    rw [hc, List.mem_singleton] at hx
    exact ⟨0, rfl, by rw [hx]; rfl, by rw [hx]; rfl⟩
  · decide
  · intro c h
    cases h
  · exact inFlight_all (fun o => o.started = false → o.sum (·.w) = 0 ∧ o.sum (·.d) = 0) (by decide) (by decide)
  · exact inFlight_all (fun o => o.state = .opened → o.started = false) (by decide) (by decide)
  · exact inFlight_all (fun o => o.state = .ready → o.sum (·.w) = 0) (by decide) (by decide)

theorem test_wit_BinsStayWithTheirOwners : BinsSound inFlight := by
  refine ⟨rfl, by decide, ?_, ?_, ?_, ?_, ?_, ?_, ?_, ?_⟩
  · intro b n h
    rw [inFlight_bin] at h
    split at h
    · next hb => cases h; exact ⟨0, rfl, rfl, by rw [hb]; decide⟩
    · cases h
  · intro i hl b hb
    rw [inFlight_at] at hl hb ⊢
    split at hl
    · next hi =>
      rw [if_pos hi] at hb ⊢
      rw [List.mem_singleton.mp hb]
      decide
    · exact absurd hl (by decide)
  · exact inFlight_all (fun o => o.bins.Nodup ∧ (State.printsWith o 0 ≤ 400 → o.bins.length ≤ 4)) (by decide)
      (by decide)
  · exact inFlight_all (fun o => o.state = .opened ∨ o.state = .void → o.bins = []) (by decide) (by decide)
  · exact inFlight_all (fun o => o.live = true → o.state ≠ .void →
      total (o.bins.map fun b => (inFlight.sorter.bin b).count) = o.sum (·.d)) (by decide) (by decide)
  · exact inFlight_all (fun o => o.state = .active ∨ o.state ≠ .void ∧ 0 < o.sum (·.w) →
      o.sum (fun n => n.d + n.w + n.p) ≤ 100 * o.bins.length) (by decide) (by decide)
  · exact inFlight_all (fun o => o.committedState = true → State.ordered o ≤ 400) (by decide) (by decide)
  · exact inFlight_all (fun o => o.index.isSome = o.indexRequested ∧
      ∀ x, o.index = some x → x.n.q = 1 ∧ x.n.c = 0) ⟨rfl, fun x h => by cases h⟩ ⟨rfl, fun x h => by cases h⟩

theorem test_wit_FewCommandsWriteDramAndPrices :
    exec (.lineRun hL) State.reset = .next (State.reset.place hL 19 .eState []) ∧
    Instr.lineRun hL ≠ .powerOn := ⟨rfl, by simp⟩

/-! ### Hypotheses met: orders, images, prices -/

theorem test_wit_SettleLeavesUndisturbedOrders :
    ((withOrder (order .ready (cnt 10 0 0 0 0))).orderAt 0).state = .ready ∧
    ((withOrder (order .ready (cnt 10 0 0 0 0))).orderAt 0).holds.paper = false ∧
    BookSound (withOrder (order .ready (cnt 10 0 0 0 0))) :=
  ⟨rfl, rfl, withOrder_sound _ (by decide) rfl⟩

theorem test_wit_NumbersFindTheirOrders :
    (withOrder openOrder).findLive 7 = some 0 ∧ (withOrder openOrder).findLive 65535 = none ∧
    hO.port = .order ∧ hT.port = .till ∧ hL.port = .line ∧ hT.port ≠ .order ∧ (1 : Byte).toNat ≤ 1 := by decide

/-- A new number with the largest promo in an empty book; a number in use; a full book. -/
theorem test_wit_OrderOpenMakesAnOpenRecord :
    originOf 5 = some .online ∧ serviceOf 1 = some .express ∧ yesNo 1 = some true ∧
    (65535 : Half).toNat ≠ 0 ∧ (500 : Half).toNat ≤ 500 ∧ State.reset.findLive 65535 = none ∧
    firstRecord (fun o => !o.live) State.reset.book.records = some 0 ∧
    firstRecord (fun o => !o.live) (withOrder openOrder).book.records = some 1 ∧
    (withOrder openOrder).findLive 7 ≠ none ∧
    (∀ o ∈ List.replicate 64 openOrder, o.live = true) := by decide

theorem test_wit_ItemRequestsEditAnOpenOrder :
    ((withOrder openOrder).orderAt 0).state = .opened ∧ (withOrder openOrder).findLive 7 = some 0 ∧
    mirrorOf 3 = some ⟨true, true⟩ ∧ yesNo 1 = some true ∧
    rgbSignedWithin ⟨30, BitVec.ofInt 8 (-30), 0⟩ 30 = some ⟨30, -30, 0⟩ ∧
    ((withOrder openOrder).orderAt 0).items.length < 16 ∧ (withOrder openOrder).itemsUsed < 512 ∧
    ((loaded (withOrder openOrder)).images.slot 3).state ≠ .free ∧
    ((withOrder openOrder).orderAt 0).items[0]? = some (item (cnt 0 0 10 0 0)) := by decide

/-- An order that passes R12; and one that fails it by its image, by its size, by its product. -/
theorem test_wit_OrderCommitLocksAndQueues :
    (priced (loaded (withOrder openOrder))).itemLoaded (item (cnt 0 0 10 0 0)) = true ∧
    (priced (loaded (withOrder openOrder))).itemFits (item (cnt 0 0 10 0 0)) = true ∧
    (priced (loaded (withOrder openOrder))).itemEnabled (item (cnt 0 0 10 0 0)) = true ∧
    (priced (loaded (withOrder openOrder))).indexEnabled openOrder = true ∧
    State.ordered openOrder ≤ 400 ∧ openOrder.items ≠ [] ∧ openOrder.state = .opened ∧
    yesNo 0 = some false ∧ (withOrder openOrder).book.sequence < 4294967295 ∧
    (withOrder openOrder).itemLoaded (item (cnt 0 0 10 0 0)) = false ∧
    (loaded (withOrder openOrder)).itemLoaded (item (cnt 0 0 10 0 0)) = true ∧
    (loaded (withOrder openOrder)).itemFits (item (cnt 0 0 10 0 0)) = false ∧
    (priced (loaded (withOrder openOrder))).itemEnabled ⟨3, 3, ⟨false, false⟩, false, .all 0, cnt 0 0 1 0 0⟩
      = false ∧
    openOrder.items[0]? = some (item (cnt 0 0 10 0 0)) := by decide

theorem test_wit_WithdrawReopensAndDiscardFrees :
    (withOrder (order .queued (cnt 0 0 10 0 0))).findLive 7 = some 0 ∧
    (order .queued (cnt 0 0 10 0 0)).started = false ∧ (order .queued (cnt 0 0 10 0 0)).paid = none ∧
    (order .held (cnt 0 0 10 0 0)).state ≠ .queued ∧ (withOrder openOrder).findLive 7 = some 0 ∧
    openOrder.state = .opened := by decide

/-- The smallest and the largest image; a load in flight; a used slot; pages short. -/
theorem test_wit_ImageLoadTakesPages :
    (511 : Half).toNat ≤ 511 ∧ 16 ≤ (16 : Half).toNat ∧ (6100 : Half).toNat ≤ 6100 ∧
    (12200 : Half).toNat ≤ 12200 ∧ State.reset.images.load = none ∧
    pagesFor 6100 12200 ≤ State.reset.images.freePages ∧ (State.reset.images.slot 511).state = .free ∧
    ({ State.reset with images.load := some ⟨0, 0, false⟩ } : State).images.load ≠ none ∧
    (({ (loaded State.reset) with
      images := (loaded State.reset).images.addRef 3 } : State).images.slot 3).refs = 1 ∧
    131072 < 40 * pagesFor 6100 12200 := by decide +kernel

theorem test_wit_ReleaseAndLoadFaultFreeTheSlot :
    (511 : Half).toNat ≤ 511 ∧ (State.reset.images.slot 511).refs = 0 ∧
    (State.reset.images.slot 511).state = .free ∧ ((loaded State.reset).images.slot 3).state = .loaded ∧
    ((State.reset.images.modSlot 3 fun x => { x with state := .loading }).slot 3).state = .loading ∧
    0 < ((State.reset.images.addRef 3).slot 3).refs ∧ 511 < State.reset.images.slots.length := by
  decide +kernel

/-- A started load of a 16 × 16 image, 384 words of 768 bytes: before its last word, and complete. -/
def loading (taken : Nat) : State :=
  { State.reset with
    images := { State.reset.images.modSlot 3 (fun x =>
      { x with state := .loading, size := some ⟨16, 16⟩, pages := [0] }) with
      frameValid := true, load := some ⟨3, taken, true⟩ } }

theorem test_wit_ImageLinkRunsTheLoad :
    (loading 383).images.frameValid = true ∧ (loading 383).images.load = some ⟨3, 383, true⟩ ∧
    ((loading 383).images.slot 3).size = some ⟨16, 16⟩ ∧ wordsFor ⟨16, 16⟩ = 384 ∧
    Memory.wf (loading 383).images.dram = true ∧ State.reset.images.frameValid = false ∧
    pageAddress [0] (2 * 383 + 1) = some 767 := by decide

theorem test_wit_PriceRequestsStageAndActivate :
    yesNo 1 = some true ∧ widthOf 8 = some 305 ∧ productSurfaceOf 3 = some (.of .lustre) ∧
    76 ≤ (76 : Half).toNat ∧ (610 : Half).toNat ≤ 610 ∧ (50000 : Half).toNat ≤ 50000 ∧
    tiersValid 50000 [⟨2, 50000⟩, ⟨9998, 1⟩, ⟨9999, 0⟩] = true ∧ tiersValid 35 [⟨1, 30⟩] = false ∧
    tiersValid 35 [⟨50, 36⟩] = false ∧ (100 : Byte).toNat ∈ [1, 2, 5, 10, 20, 50, 100] ∧
    (3000 : Half).toNat ≤ 3000 := by decide

theorem test_wit_SettlementNeverAboveQuote :
    List.Forall₂ (· ≤ ·) [0, 5] [1, 5] ∧ PriceTable.powerOn.sound = true ∧ (500 : Nat) ≤ 500 ∧
    (order .ready (cnt 5 0 0 5 0)).items.map (fun i => (i.product, i.n.q)) =
      openOrder.items.map (fun i => (i.product, i.n.q)) ∧
    (order .ready (cnt 5 0 0 5 0)).service = openOrder.service ∧
    (order .ready (cnt 5 0 0 5 0)).promo = openOrder.promo ∧
    (order .ready (cnt 5 0 0 5 0)).indexCharged = false := by
  refine ⟨.cons (by omega) (.cons (by omega) .nil), by decide, by omega, by decide, rfl, rfl, rfl⟩

/-- Orders READY and VOID for a settlement; a payment that covers the figure 350, one that does not. -/
theorem test_wit_SettlePayAndCollect :
    (withOrder (order .ready (cnt 10 0 0 0 0))).findLive 7 = some 0 ∧
    (order .ready (cnt 10 0 0 0 0)).lock = some lock0 ∧ (order .void (cnt 9 1 0 0 0)).state = .void ∧
    (order .ready (cnt 10 0 0 0 0)).committedState = true ∧ (order .ready (cnt 10 0 0 0 0)).paid = none ∧
    (order .ready (cnt 10 0 0 0 0)).figure = 350 ∧ (99999999 : Wide).toNat ≤ 99999999 ∧
    (349 : Wide).toNat < (order .ready (cnt 10 0 0 0 0)).figure ∧
    ({ order .ready (cnt 10 0 0 0 0) with paid := some 350 } : Order).paid ≠ none := by decide

/-- An order settled at 350: paid in full, and a cent short. -/
def settledOrder (paid : Nat) : Order :=
  { order .ready (cnt 10 0 0 0 0) with settled := some (settlement lock0 (order .ready (cnt 10 0 0 0 0)))
                                       paid := some paid }

theorem test_wit_SettlePayAndCollect_collect :
    (withOrder (settledOrder 350)).findLive 7 = some 0 ∧ (settledOrder 350).state = .ready ∧
    (settledOrder 350).settled.map (·.values.f) = some 350 ∧ (settledOrder 350).paid.getD 0 = 350 ∧
    (settledOrder 349).paid.getD 0 < 350 := by decide

theorem test_wit_CancelFreesOrVoids :
    (withOrder openOrder).findLive 7 = some 0 ∧ openOrder.state = .opened ∧
    (order .active (cnt 4 2 4 0 0)).committedState = true ∧ (order .active (cnt 4 2 4 0 0)).sum (·.w) = 2 ∧
    (order .queued (cnt 0 0 10 0 0)).committedState = true ∧
    (order .queued (cnt 0 0 10 0 0)).sum (·.w) = 0 := by decide

/-- ORDER_HOLD refused, repeated, deferred and taken; ORDER_RELEASE in HELD and elsewhere. -/
theorem test_wit_HoldAndReleaseMoveAnOrder :
    (withOrder (order .queued (cnt 0 0 10 0 0))).findLive 7 = some 0 ∧ openOrder.state = .opened ∧
    Holds.has ⟨true, false, false, false⟩ .till = true ∧ Holds.none.has .operator = false ∧
    (exposing (withOrder (order .active (cnt 4 2 4 0 0)))).exposes 0 = true ∧
    (withOrder (order .active (cnt 4 2 4 0 0))).exposes 0 = false ∧
    (order .held (cnt 4 0 6 0 0)).state = .held ∧ (order .held (cnt 4 0 6 0 0)).holds.isEmpty = true ∧
    0 < (order .held (cnt 4 0 6 0 0)).sum (·.p) := by decide

/-- An order with nothing pending and nothing in flight is READY at its release: ORDER_READY on every port, bin 3
COMPLETE (R21). -/
theorem test_release_raises_order_ready :
    (match exec (.orderRelease hT 7) { withOrder { order .held (cnt 10 0 0 0 0) with
        holds := ⟨true, false, false, false⟩, bins := [3] } with
        sorter := State.reset.sorter.modBins (fun _ => ⟨.filling, some 7, 10⟩) [3] } with
      | .next t => decide ((t.orderAt 0).state = .ready ∧ (t.port .order).flags.getLsbD 0 = true ∧
          (t.port .line).flags.getLsbD 0 = true ∧ (t.sorter.bin 3).state = .complete)
      | _ => false) = true := by decide

theorem test_wit_ReprintQueuesAReadyOrder :
    (withOrder (order .ready (cnt 10 0 0 0 0))).findLive 7 = some 0 ∧
    (order .ready (cnt 10 0 0 0 0)).items[0]? = some (item (cnt 10 0 0 0 0)) ∧
    (cnt 10 0 0 0 0).c + (9 : Byte).toNat ≤ 20 ∧ State.printsWith (order .ready (cnt 10 0 0 0 0)) 9 ≤ 400 ∧
    20 < (⟨10, 12, 22, 0, 0, 0, 0⟩ : Counts).c + (9 : Byte).toNat := by decide

/-- A skip of an ACTIVE order's item, of its index, and of the last pending prints of a QUEUED order. -/
theorem test_wit_ItemSkipMovesPendingToSkipped :
    (((order .queued (cnt 0 0 10 0 0)).modCounts 1 fun m => { m with p := 0, s := m.s + m.p }).sum (·.w) = 0) ∧
    (withOrder (order .active (cnt 4 2 4 0 0))).findLive 7 = some 0 ∧
    (order .active (cnt 4 2 4 0 0)).countsAt 1 = some (cnt 4 2 4 0 0) ∧
    ({ order .active (cnt 10 0 0 0 0) with index := some ⟨none, ⟨1, 0, 0, 0, 1, 0, 0⟩⟩ } : Order).countsAt 0 =
      some ⟨1, 0, 0, 0, 1, 0, 0⟩ ∧
    (withOrder (order .queued (cnt 0 0 10 0 0))).findLive 7 = some 0 ∧
    ((order .queued (cnt 0 0 10 0 0)).modCounts 1 fun m => { m with p := 0, s := m.s + m.p }).sum (·.p) = 0 ∧
    ((order .held (cnt 4 2 4 0 0)).modCounts 1 fun m => { m with p := 0, s := m.s + m.p }).state ≠ .ready := by
  decide

/-! ### Hypotheses met: line, head, settings -/

theorem test_wit_RunPauseStandbyAndWakeMoveTheLine :
    hL.port = .line ∧ State.reset.cal.calibrated = false ∧ State.reset.writing = false ∧
    (exposing State.reset).writing = true ∧
    ({ State.reset with cal.calibrated := true } : State).cal.calibrated = true ∧
    (State.reset.setLine .standby).ctl.line = .standby ∧ State.reset.ctl.line ≠ .standby ∧
    State.reset.ctl.standbyTimer = some 0 ∧ State.reset.ctl.wakeTimer = none ∧
    (State.reset.setLine .standby).wake.ctl.wakeTimer = some 0 ∧
    (State.reset.setLine .standby).ctl.standbyTimer.map (fun _ => ()) = some () ∧
    (exposing { State.reset with ctl.standbyTimer := none }).ctl.standbyTimer = none := by decide

/-- An ACTIVE order with two of its prints on the web. -/
def resetting (o : Order) : State :=
  { withOrder o with cutter.web := [web .unseen false, web .unseen false] }

/-- LINE_RESET in STANDBY; with a frame being written; and with an ACTIVE order that is then left to be HELD,
QUEUED (by the spoils), and, nothing of it on the web, DRAINING and READY. -/
theorem test_wit_LineResetAbandonsThePaper :
    State.reset.ctl.line ≠ .standby ∧ (exposing State.reset).writing = true ∧
    (State.reset.setLine .standby).ctl.line = .standby ∧
    BookSound (withOrder (order .active (cnt 4 2 4 0 0))) ∧
    (resetting (order .active (cnt 8 2 0 0 0))).cutter.web.filterMap (·.order) = [⟨7, 1⟩, ⟨7, 1⟩] ∧
    ((resetting (order .active (cnt 8 2 0 0 0))).resetLine.orderAt 0).state = .queued ∧
    ((resetting { order .active (cnt 8 2 0 0 0) with holds := ⟨true, false, false, false⟩ }).resetLine.orderAt
      0).state = .held ∧
    ((withOrder (order .active (cnt 8 2 0 0 0))).resetLine.orderAt 0).state = .draining ∧
    ((withOrder (order .active (cnt 10 0 0 0 0))).resetLine.orderAt 0).state = .ready :=
  ⟨by decide, by decide, by rfl, withOrder_sound _ (by decide) rfl, rfl, by decide, by decide,
    by decide, by decide⟩

/-- ENCODER in the fault set on a line in FAULT. -/
def encoderFault : State :=
  { State.reset with ctl.faults := { FaultSet.none with encoder := true }, ctl.line := .fault }

theorem test_wit_FaultClearRemovesGoneCauses :
    faultsOf 0 = FaultSet.none ∧ faultsOf 63 ≠ FaultSet.none ∧ (faultsOf 4).encoder = true ∧
    encoderFault.ctl.faults.encoder = true ∧ encoderFault.ctl.line = .fault ∧
    encoderFault.writing = false ∧ encoderFault.transport.probe = none ∧
    (faultsOf 8).encoder = false := by decide

theorem test_wit_HeadCalibrateMakesACalibrationPending :
    calKindOf 1 = some .short ∧ calKindOf 2 = some .long ∧ yesNo 0 = some false ∧ yesNo 1 = some true ∧
    State.reset.ctl.line = .stopped ∧ (exposing State.reset).writing = true ∧ State.reset.cal.pending = none ∧
    (exposing State.reset).frame? = some (context 0) ∧ (context 0).target = some ⟨7, 0, 1⟩ ∧
    (State.reset.setLine .calibrating).ctl.line = .calibrating ∧
    (State.reset.setLine .waking).ctl.line = .waking ∧
    ({ encoderFault with transport.probe := some ⟨0, 0⟩ } : State).transport.probe ≠ none := by decide

/-- No calibration, a SHORT and a LONG one. -/
theorem test_wit_CalibrationCommitsTheTrims :
    State.reset.cal.run = none ∧
    (State.reset.startCalibration .short).cal.run = some ⟨.short, 0, ⟨2048, 2048, 2048⟩⟩ ∧
    (State.reset.startCalibration .long).cal.run.map (·.kind) = some .long ∧
    6143 < (rgbGet State.reset.cal.trim .b).length ∧ 6143 < (rgbGet State.reset.cal.dead .b).length := by
  decide +kernel

/-- PATTERN_SET refused, repeated, on and off, in STOPPED and in the two works that hold its effect back; attempts
held back, one with nothing held back, one at a flush's end; a flush at its end. -/
theorem test_wit_PatternAndTestRequests :
    yesNo 1 = some true ∧ yesNo 0 = some false ∧ (exposing State.reset).ctl.line = .exposing ∧
    State.reset.ctl.line ≠ .exposing ∧ State.reset.writing = false ∧ State.reset.cal.pattern = false ∧
    ({ State.reset with cal.pattern := true } : State).cal.pattern = true ∧ magSlotOf 2 = some .m2 ∧
    1 ≤ (1 : Byte).toNat ∧ (20 : Byte).toNat ≤ 20 ∧ State.reset.cal.test = none ∧
    ({ State.reset with ctl.line := .flushing } : State).ctl.line = .flushing ∧
    ({ State.reset with ctl.line := .changeover } : State).writing = false ∧
    ({ State.reset with sched.deferred := true } : State).sched.deferred = true ∧
    State.reset.sched.deferred = false ∧ State.reset.ctl.line ≠ .calibrating ∧
    State.reset.cutter.web = [] ∧ State.reset.ctl.faults = FaultSet.none := by decide

/-- PATTERN_SET off in a flush with no paper holds no order back before the flush ends (R103). -/
theorem test_pattern_off_waits_for_the_flush :
    (match exec (.patternSet hL 0) { withOrder (order .active (cnt 0 0 10 0 0)) with
        ctl.line := .flushing, cal.pattern := true, cutter.web := [web .missed false] } with
      | .next t => decide ((t.orderAt 0).state = .active) && t.sched.deferred && !t.cal.pattern
      | _ => false) = true := by decide

theorem test_wit_SettingsRequestsStoreTheirValues :
    256 ≤ (256 : Half).toNat ∧ (4000 : Half).toNat ≤ 4000 ∧ (5000 : Half).toNat ≤ 5000 ∧
    yesNo 1 = some true ∧ (12198 : Half).toNat < (12199 : Half).toNat ∧ (12199 : Half).toNat ≤ 12199 ∧
    4000 ≤ (4000 : Half).toNat ∧ (20000 : Half).toNat ≤ 20000 ∧ 500 ≤ (500 : Half).toNat ∧
    (3000 : Half).toNat ≤ 3000 ∧ 5 ≤ (5 : Byte).toNat ∧ (200 : Byte).toNat ≤ 200 ∧
    State.reset.ctl.line = .stopped ∧ (exposing State.reset).ctl.line = .exposing ∧
    bankOf 1 = some .b ∧ (65535 : Half).toNat ≤ (65535 : Half).toNat := by decide

/-- The two ends of the ranges; a flush and a standby timer short of and past the new length, a watchdog short of
and past the new expiry, and an accumulator that the new unit makes a pulse pending of. -/
theorem test_wit_TimedSettingsActAtOnce :
    (let s : State := { State.reset with
        now := 60000000, cutter.web := [web .missed false], sched.flushTimer := some 50000 }
     s.flushRuns = true ∧ 50000 + (10 : Byte).toNat * 1000 ≤ s.now / 1000 ∧
     ¬ 50000 + (11 : Byte).toNat * 1000 ≤ s.now / 1000) ∧
    (let s : State := { State.reset with now := 60000000, ctl.timeout := 1 }
     s.ctl.standbyTimer = some 0 ∧ s.standbyRuns = true ∧ 0 + (1 : Byte).toNat * 60000 ≤ s.now / 1000 ∧
     ¬ 0 + (2 : Byte).toNat * 60000 ≤ s.now / 1000) ∧
    (let s : State := withSheets [sheet none] { State.reset with now := 385000000, monitor.tol := 5 }
     (s.checkWatchdog.monitor.stop = some 385000 ∧
      ({ s with monitor.tol := 6 } : State).checkWatchdog.monitor.stop = none)) ∧
    99 / (100 : Half).toNat = 0 ∧ 100 / (100 : Half).toNat = 1 ∧
    4000 ≤ (4000 : Half).toNat ∧ (40000 : Half).toNat ≤ 40000 ∧ (150 : Byte).toNat ≤ 150 ∧
    1 ≤ (1 : Byte).toNat ∧ (120 : Byte).toNat ≤ 120 ∧ State.reset.ctl.line = .stopped ∧
    (exposing State.reset).ctl.line = .exposing ∧ yesNo 1 = some true ∧
    1000 ≤ (1000 : Half).toNat ∧ (60000 : Half).toNat ≤ 60000 ∧ 100 ≤ (100 : Half).toNat ∧
    (10000 : Half).toNat ≤ 10000 ∧ 60 ≤ (60 : Half).toNat ∧ (900 : Half).toNat ≤ 900 := by decide

theorem test_wit_ExposureSettingsAreStored :
    surfaceOf 3 = some .lustre ∧ yesNo 1 = some true ∧ channelOf 2 = some .b ∧
    rgbCorrOf ⟨⟨60, 63⟩, ⟨BitVec.ofInt 8 (-60), 0⟩, ⟨0, 0⟩⟩ = some ⟨⟨60, 63⟩, ⟨-60, 0⟩, ⟨0, 0⟩⟩ ∧
    State.reset.tablesOpen = true ∧ (exposing State.reset).tablesOpen = false ∧
    nonDecreasing (List.replicate 128 1023) = true ∧
    nonDecreasing (1 :: List.replicate 127 0) = false := by decide

/-! ### Hypotheses met: paper -/

theorem test_wit_MagazineRequestsActOnTheSlots :
    magSlotOf 1 = some .m1 ∧ yesNo 1 = some true ∧ (State.reset.mag .m1).software = false ∧
    ((State.reset.modMag (fun g => { g with software := true }) .m1).mag .m1).software = true ∧
    500 ≤ (500 : Half).toNat ∧ (20000 : Half).toNat ≤ 20000 ∧ 50 ≤ (50 : Half).toNat ∧
    remainingOf 999999 = some (.mm 999999) ∧ remainingOf 4294967295 = some .unknown ∧
    threaded.magState .m1 = .active ∧ State.reset.magState .m1 = .absent := by decide

/-- A slot whose presence comes, goes unthreaded, and goes threaded, with and without records on the web; one that
comes READY from ABSENT and from UNUSABLE, in FLUSHING and outside. -/
theorem test_wit_PresenceChangesInsertRemoveOrBreak :
    (threaded.mag .m1).present = true ∧ (State.reset.mag .m1).present = false ∧
    State.reset.transport.threaded ≠ some .m1 ∧
    ((threaded.modMag (fun g => { g with debounced := false }) .m1).mag .m1).present = false ∧
    (threaded.modMag (fun g => { g with debounced := false }) .m1).transport.threaded = some .m1 ∧
    (exposing threaded).cutter.web ≠ [] ∧ ({ threaded with ctl.line := .flushing } : State).ctl.line = .flushing ∧
    ({ State.reset with ctl.line := .standby } : State).ctl.wakeInsertion = true ∧
    ({ withOrder (order .active (cnt 0 0 10 0 0)) with
        transport.changeover := some ⟨.m1, 0⟩ } : State).transport.changeover = some ⟨.m1, 0⟩ ∧
    (withOrder (order .active (cnt 0 0 10 0 0))).current = some 0 ∧
    (order .active (cnt 0 0 10 0 0)).holds.paper = false ∧ State.reset.current = none ∧
    State.reset.transport.changeover.map (·.incoming) ≠ some .m1 ∧
    State.reset.magState .m1 = .absent ∧
    ({ threaded with transport.threaded := none } : State).magState .m1 = .ready ∧
    (threaded.modMag (fun g => { g with ctx := none }) .m1).magState .m1 = .unusable ∧
    State.reset.magState .m2 = threaded.magState .m2 := by decide

/-- The last count of the range, a probe at its 40th count, dead reckoning advanced and passed by a timed row, and a
roll's last millimetre. -/
theorem test_wit_CountsMovePositionAndRoll :
    State.reset.transport.probe = none ∧ State.reset.transport.deadReckoning = none ∧
    min 281474976710655 (281474976710655 + 1) = 281474976710655 ∧
    (⟨0, 39⟩ : Probe).counts + 1 = 40 ∧ (200000 : Nat) / 1000 ≤ (⟨0, 39⟩ : Probe).start + 200 ∧
    (⟨0, 38⟩ : Probe).counts + 1 < 40 ∧ State.reset.reckons = false ∧
    reckoning.reckons = true ∧ reckoning.transport.deadReckoning = some ⟨0, 4000000, 0⟩ ∧ reckoning.now < 1 * 1000 ∧
    (reckoning.passTo 1).transport.position = 4000 ∧
    (threaded.mag .m1).endSeen = false ∧ (threaded.mag .m1).remaining = .mm 10000 ∧
    (threaded.mag .m1).carry + (400000 - (threaded.mag .m1).consumedTo) ≤ 10000 * 40 ∧
    10000 * 40 < (threaded.mag .m1).carry + (400001 - (threaded.mag .m1).consumedTo) := by decide

/-- Distances at both ends of a match and just outside; a pulse with a partner in a run that has matched, at a later
time and at the same, and in one that has not. -/
theorem test_wit_EncoderHealthIsWatched :
    State.reset.transport.encoder = false ∧ distance 12004 0 ≤ 12000 + 4 ∧ 12000 ≤ distance 11996 0 + 4 ∧
    12000 + 4 < distance 12005 0 ∧ distance 11995 0 + 4 < 12000 ∧ State.reset.transport.motor = false ∧
    ({ State.reset with transport.motor := true } : State).transport.motor = true ∧
    reckoning.transport.encoder = true ∧ State.reset.transport.matched = false ∧
    (let t := { State.reset.transport with
        motor := true, pulseUs := some 0, matched := true, indexRef := some 0, position := 12000 }
     ({ State.reset with transport := t, now := 3000000 } : State).indexPulse.transport.speed = some 4000 ∧
     ({ State.reset with transport := { t with matched := false }, now := 3000000 } :
       State).indexPulse.transport.speed = none ∧
     ({ State.reset with transport := { t with matched := false } } : State).indexPulse.transport.matched = true) := by
  decide

theorem test_wit_ClearProbeEndsPassedOrFailed :
    State.reset.transport.probe = none ∧
    ({ encoderFault with transport.probe := some ⟨0, 0⟩ } : State).transport.probe = some ⟨0, 0⟩ ∧
    (200999 : Nat) / 1000 ≤ 0 + 200 ∧ 0 + 200 < (201000 : Nat) / 1000 := by decide

/-- A paper end on the threaded slot with a frame that fits in END_LEAD, and with one that does not. -/
theorem test_wit_MagazineInputsAreTaken :
    (State.reset.mag .m1).detect = (State.reset.mag .m1).debounced ∧
    ((State.reset.modMag (fun g => { g with detect := true }) .m1).mag .m1).detect ≠
      ((State.reset.modMag (fun g => { g with detect := true }) .m1).mag .m1).debounced ∧
    (threaded.mag .m1).endInput = false ∧ threaded.transport.threaded = some .m1 ∧
    (threaded.mag .m1).endSeen = false ∧
    150 * 40 < (context 63).start + (context 63).span - ((context 63).start + 2 * (context 63).next) ∧
    (context 64).start + (context 64).span - ((context 64).start + 2 * (context 64).next) ≤ 150 * 40 ∧
    (exposing threaded).engine.work = .frame (context 0) ∧ threaded.writing = false := by decide

/-- The roll runs LOW under dead reckoning in the 20 ms before its removal is taken: PAPER_LOW is set on every port
although the slot is then ABSENT (R182). -/
theorem test_paper_low_seen_before_the_removal :
    (match exec (.detectDebounced .m1) { reckoning with
        transport := { threaded.transport with
          encoder := true, deadReckoning := some ⟨0, 4000000, 0⟩, motor := true
          m1 := { threaded.transport.m1 with detect := false, remaining := .mm 3001 } } } with
      | .next t => decide (t.magState .m1 = .absent ∧ t.conditionWord.getLsbD 10 = false) &&
          [Port.order, .till, .line].all fun p => (t.port p).flags.getLsbD 10
      | _ => false) = true := by decide

/-- A changeover from M1, with `short` mm left, to M2; order 7 is held for PAPER. -/
def changing (short : Nat) : State :=
  { withOrder { order .held (cnt 0 0 10 0 0) with holds.paper := true } with
    ctl.line := .changeover
    transport := { threaded.transport with
      m1 := { threaded.transport.m1 with remaining := .mm short }
      m2 := { threaded.transport.m1 with remaining := .unknown }
      changeover := some ⟨.m2, 0⟩ } }

set_option maxRecDepth 4000 in
/-- R125: the outgoing slot that was LOW already takes PAPER from the order as one that becomes READY does;
a slot that is EMPTY leaves it. -/
theorem test_outgoing_slot_releases_paper :
    (changing 500).changeoverEnds.magState .m1 = .low ∧
    ((changing 500).changeoverEnds.orderAt 0).holds.paper = false ∧
    (changing 5000).changeoverEnds.magState .m1 = .ready ∧
    ((changing 5000).changeoverEnds.orderAt 0).holds.paper = false ∧
    (((changing 0).modMag (fun g => { g with endSeen := true }) .m1).changeoverEnds.orderAt 0).holds.paper =
      true := by decide

/-- A changeover with and without the paper end shown, with an outgoing slot, without one and to the slot that
is threaded already; a last record that is and is not CLOSING. -/
theorem test_wit_ChangeoverAndFlushTimerEnd :
    State.reset.transport.changeover = none ∧
    ({ threaded with transport.changeover := some ⟨.m1, 0⟩ } : State).transport.changeover = some ⟨.m1, 0⟩ ∧
    (threaded.mag .m1).endInput = false ∧
    ((threaded.modMag (fun g => { g with endInput := true }) .m1).mag .m1).endInput = true ∧
    ((changing 500).passTo 8000).transport.threaded = some .m1 ∧ MagSlot.m1 ≠ .m2 ∧
    ((changing 500).passTo 8000).writing = false ∧ threaded.transport.threaded = some .m1 ∧
    State.reset.transport.threaded = none ∧ State.reset.writing = false ∧
    State.reset.sched.flushTimer = none ∧
    ({ State.reset with sched.flushTimer := some 0 } : State).sched.flushTimer = some 0 ∧
    [web .missed false].getLast? = some (web .missed false) ∧ (web .missed false).kind ≠ .closing ∧
    ({ web .missed false with kind := .closing } : WebRecord).kind = .closing := by decide

/-- A mark at both ends of the tolerance and just outside; blanked and not. -/
theorem test_wit_MarksAreTakenOrMissed :
    ({ State.reset.cutter with web := [web .missed true, web .unseen false] } : Cutter).web =
      [web .missed true] ++ web .unseen false :: [] ∧
    (web .missed true).mark ≠ .unseen ∧ (web .unseen false).mark = .unseen ∧
    State.reset.cutter.blanked 11716 = false ∧ 11716 ≤ (web .unseen false).expected + 100 ∧
    (web .unseen false).expected ≤ 11516 + 100 ∧ (web .unseen false).expected + 100 < 11717 ∧
    11515 + 100 < (web .unseen false).expected ∧
    ({ State.reset.cutter with lastMark := some ⟨10000, 0⟩ } : Cutter).blanked 11999 = true ∧
    ({ State.reset.cutter with lastMark := some ⟨10000, 0⟩ } : Cutter).blanked 12000 = false ∧
    State.reset.cutter.markInput = false := by decide

theorem test_wit_BladeFollowsItsInputs :
    State.reset.cutter.blade = .isIn ∧ State.reset.cutter.homeInput = true ∧
    ({ State.reset.cutter with blade := .down 0 30, homeInput := false } : Cutter).blade = .down 0 30 ∧
    ({ State.reset.cutter with blade := .returning 5 } : Cutter).blade = .returning 5 ∧
    ({ State.reset.cutter with blade := .stuck } : Cutter).blade = .stuck := by decide

/-- A record whose cut is settled at 12,000 with the blade IN. -/
def cutting (leading : WebRecord) : State :=
  { State.reset with
    transport.position := 12000
    cutter.web := [leading, { web (.taken 11600) false with cut := some 12000 }] }

theorem test_wit_CutFiresWhenDue :
    State.reset.cutter.cutDue 0 = false ∧ (cutting (web .missed true)).cutter.cutDue 12000 = true ∧
    (cutting (web .missed true)).cutter.cutDue 11999 = false ∧ (cutting (web .missed true)).cutter.blade = .isIn ∧
    (cutting (web .missed true)).cutter.homeInput = true ∧ (web .missed true).leading = true ∧
    (web .missed true).kind.sheet = some .print ∧
    ({ web .missed true with kind := .waste } : WebRecord).kind.sheet = none ∧
    (web .missed false).leading = false ∧
    ({ (cutting (web .missed true)).cutter with lastCut := some 8960 } : Cutter).cutDue 12000 = true ∧
    ({ (cutting (web .missed true)).cutter with lastCut := some 8961 } : Cutter).cutDue 12000 = false := by
  decide

/-! ### Hypotheses met: processor, sorter, frames -/

/-- Bins in each state of R162, at both ends of the numbers. -/
theorem test_wit_BinEmptiedFreesPurgedBins :
    24 < (25 : Byte).toNat ∧ (0 : Byte).toNat = 0 ∧ (24 : Byte).toNat ≤ 24 ∧
    (State.reset.sorter.bin 24).state = .free ∧
    ((State.reset.sorter.modBins (fun _ => ⟨.purge, none, 3⟩) [1]).bin 1).state = .purge ∧
    ((State.reset.sorter.modBins (fun _ => ⟨.filling, some 7, 3⟩) [24]).bin 24).state = .filling := by decide

/-- A watchdog with a sheet; JAM_CLEAR beyond 600, with no stop, beyond the list, of one of two, of both, and with a
new head whose expiry is still ahead and one whose expiry has come. -/
theorem test_wit_JamsStopTheProcessorUntilCleared :
    State.reset.monitor.stop = none ∧ State.reset.monitor.sheets = [] ∧
    (withSheets [sheet none] State.reset).monitor.sheets = [sheet none] ∧
    (sheet (some ⟨7, 1⟩)).order = some ⟨7, 1⟩ ∧ 600 < (601 : Half).toNat ∧ (600 : Half).toNat ≤ 600 ∧
    ({ State.reset with monitor.stop := some 0 } : State).monitor.stop = some 0 ∧
    [sheet none, sheet none].length < (3 : Half).toNat ∧
    (([sheet none, sheet none].drop 2).head?).isNone = true ∧
    [sheet none, sheet none].drop 1 = [sheet none] ∧
    399999999 / 1000 < (sheet none).due + (399999999 / 1000 - 399999) + 20 * 1000 ∧
    (sheet none).due + (400000000 / 1000 - 400000) + 20 * 1000 ≤ 400000000 / 1000 := by decide

/-- Spoils 3 and 4 of a print, of a VOID order's last print; the start of an order's last frame. -/
theorem test_wit_FrameStartsAndSpoilsMoveOnePrint :
    (withOrder (order .draining (cnt 9 1 0 0 2))).findLive 7 = some 0 ∧
    (order .draining (cnt 9 1 0 0 2)).countsAt 1 = some (cnt 9 1 0 0 2) ∧
    (cnt 9 1 0 0 2).spoil < 3 ∧ 3 ≤ (cnt 9 1 0 0 3).spoil ∧ (order .void (cnt 9 1 0 0 0)).state = .void ∧
    (order .active (cnt 9 0 1 0 0)).state = .active ∧ 0 < (cnt 9 0 1 0 0).p ∧
    (order .active (cnt 9 0 1 0 0)).sum (·.p) = 1 ∧
    (withOrder (order .active (cnt 9 0 1 0 0))).orderAt 0 = order .active (cnt 9 0 1 0 0) := by
  decide

/-- Entrance levels and sheets; bins with 99 sheets and with 100, all bins full; an order that is not live. -/
theorem test_wit_ArrivalsAreSorted :
    State.reset.monitor.input = false ∧ State.reset.monitor.sensor = false ∧
    ({ State.reset with monitor.input := true } : State).monitor.input = true ∧
    ({ State.reset with monitor.sensor := true } : State).monitor.sensor = true ∧
    (sheet none).order = none ∧ (sheet none).inspect = false ∧ (sheet (some ⟨7, 1⟩)).order = some ⟨7, 1⟩ ∧
    (withOrder (order .draining (cnt 9 1 0 0 0))).findLive 7 = some 0 ∧
    (withOrder (order .draining (cnt 9 1 0 0 0))).findLive 8 = none ∧
    (order .draining (cnt 9 1 0 0 0)).countsAt 1 = some (cnt 9 1 0 0 0) ∧
    [1, 2].find? (fun b => decide (((State.reset.sorter.modBins (fun _ => ⟨.filling, some 7, 100⟩) [1]).bin b).count
      < 100)) = some 2 ∧
    [1].find? (fun b => decide (((State.reset.sorter.modBins (fun _ => ⟨.filling, some 7, 100⟩) [1]).bin b).count
      < 100)) = none ∧
    ((State.reset.sorter.modBins (fun _ => ⟨.filling, some 7, 99⟩) [1]).bin 1).count < 100 ∧
    ((order .draining (cnt 9 1 0 0 0)).modCounts 1 fun n => { n with w := n.w - 1, d := n.d + 1 }).sum (·.w) = 0 ∧
    ((order .draining (cnt 8 2 0 0 0)).modCounts 1 fun n => { n with w := n.w - 1, d := n.d + 1 }).sum (·.w) = 1 ∧
    2 ≤ State.reset.sorter.bins.length := by decide

/-- The last sheet of an order, inspected: INSPECT and ORDER_READY, the bin COMPLETE with its count (R9, R157). -/
theorem test_last_delivery :
    (let s : State := { withOrder { order .draining (cnt 9 1 0 0 0) with bins := [3] } with
        sorter := State.reset.sorter.modBins (fun _ => ⟨.filling, some 7, 9⟩) [3] }
     let t := s.sortSheet { sheet (some ⟨7, 1⟩) with inspect := true }
     (t.port .till).flags = 257 ∧ (t.orderAt 0).state = .ready ∧ (t.orderAt 0).inspect = true ∧
       t.sorter.bin 3 = ⟨.complete, some 7, 10⟩) := by decide

theorem test_wit_ProcessorTimersRun :
    State.reset.monitor.pump = .idle ∧
    ({ State.reset with monitor.pump := .pulse 0 250, monitor.pulses := 1 } : State).monitor.pump = .pulse 0 250 ∧
    ({ State.reset with monitor.pump := .gap 250 250 } : State).monitor.pump = .gap 250 250 ∧
    State.reset.sorter.gate = none ∧ (State.reset.steer 24).sorter.gate = some 0 := by decide

/-- Lines of the mark band and beside it; a head at rest and before line 0; the back-print strobe's first and last
image lines and the lines around them. -/
theorem test_wit_DriveCodesStayInRange :
    6143 < 6144 ∧ 23 < 24 ∧ 24 ≤ 24 ∧ AtRest State.reset ∧ State.reset.ctl.line ≠ .calibrating ∧
    State.reset.engine.work = .idle ∧ (exposing State.reset).engine.work = .frame (context 0) ∧
    (context 0).next = 0 ∧ (context 0).kind = .print ∧ (context 0).target = some ⟨7, 0, 1⟩ ∧
    24 + (context 0).bpStart < 125 ∧ 424 ≤ 24 + (context 0).bpStop ∧ 424 < 24 + (context 0).lines ∧
    124 ≤ 24 + (context 0).bpStart ∧ 24 + (context 0).bpStop < 425 ∧ (exposing State.reset).writing = true := by
  refine ⟨by decide, by decide, by decide, ⟨rfl, by decide, by decide, by decide, by decide,
    fun p => by cases p <;> decide, by decide, by decide, fun d h => by cases h⟩, ?_⟩
  decide

/-- R89: the strobe comes with image line 100 and goes with line 400. -/
theorem test_back_print_lines :
    backPrintAt { context 0 with bpEnable := true } 124 = none ∧
    backPrintAt { context 0 with bpEnable := true } 125 = some ⟨7, 0⟩ ∧
    backPrintAt { context 0 with bpEnable := true } 424 = some ⟨7, 0⟩ ∧
    backPrintAt { context 0 with bpEnable := true } 425 = none := by decide

/-- Two orders in the queue: scan conditions, and reservations that fit exactly and that find too few bins. -/
theorem test_wit_ScansSelectAndReserve :
    State.reset.mayScan = false ∧ State.reset.due.scan = false ∧
    ({ State.reset with due.scan := true } : State).due.scan = true ∧
    ({ State.reset with ctl.runEnable := true } : State).mayScan = true ∧
    BookSound (withOrder (order .queued (cnt 0 0 10 0 0))) ∧
    (withOrder (order .queued (cnt 0 0 10 0 0))).book.queue = [] ++ 0 :: [] ∧
    (withOrder (order .queued (cnt 0 0 10 0 0))).choose (order .queued (cnt 0 0 10 0 0)) = .paper ∧
    ({ withOrder (order .queued (cnt 0 0 10 0 0)) with transport := threaded.transport } : State).choose
      (order .queued (cnt 0 0 10 0 0)) = .frame 1 ∧
    ((withOrder (order .queued (cnt 0 0 10 0 0))).reserve 0).isSome = true ∧
    ({ withOrder (order .queued (cnt 0 0 10 0 0)) with
      sorter := State.reset.sorter.modBins (fun _ => ⟨.purge, none, 1⟩) (List.range' 1 15) } :
        State).sorter.freeBins .a = [16] ∧
    (({ withOrder (order .queued (cnt 0 0 10 0 0)) with
      sorter := State.reset.sorter.modBins (fun _ => ⟨.purge, none, 1⟩) (List.range' 1 16) } :
        State).reserve 0).isNone = true ∧
    0 < (withOrder (order .queued (cnt 0 0 10 0 0))).book.records.length ∧
    State.reset.sorter.bins.length = 24 ∧ 1 ≤ (65535 : Nat) ∧ 4700 ≤ 4700 ∧ (4799 : Nat) ≠ 0 :=
  ⟨by decide, rfl, rfl, by decide, withOrder_sound _ (by decide) rfl, by rfl, by decide,
    by decide, by decide, by decide, by decide, by decide, by decide, by decide,
    by decide, by decide⟩

/-- A frame on the threaded slot with the roll reserve just met, a changeover where it is just missed and M2 suits,
and PAPER. -/
theorem test_wit_FrameChoiceFollowsThePaper :
    (order .queued (cnt 0 0 10 0 0)).candidates = [] ++ 1 :: [] ∧ threaded.transport.threaded = some .m1 ∧
    (threaded.modMag (fun g => { g with remaining := .mm 252 }) .m1).itemSuits (order .queued (cnt 0 0 10 0 0))
      .m1 1 = true ∧
    (threaded.modMag (fun g => { g with remaining := .mm 251 }) .m1).itemSuits (order .queued (cnt 0 0 10 0 0))
      .m1 1 = false ∧
    (let t : State := (threaded.modMag (fun g => { g with remaining := .mm 251 }) .m1).modMag
      (fun _ => (threaded.mag .m1)) .m2
     t.itemSuits (order .queued (cnt 0 0 10 0 0)) .m2 1 = true ∧
       t.choose (order .queued (cnt 0 0 10 0 0)) = .change .m2) ∧
    State.reset.choose (order .queued (cnt 0 0 10 0 0)) = .paper := by decide

/-- The lines reached: none before line 0's point, line 0 at it, line 1 two counts on, all of a frame of 3,064
lines, and the 24th of a closing gap. A frame's end with and without a hold reason, and with a pause pending. -/
theorem test_wit_LinesAreWrittenOnceAndEndTheFrame :
    linesDue 100 0 3064 99 = 0 ∧ linesDue 100 0 3064 100 = 1 ∧ linesDue 100 1 3064 101 = 1 ∧
    linesDue 100 1 3064 102 = 2 ∧ linesDue 100 2 3064 6226 = 3064 ∧ linesDue 100 2 3064 6225 = 3063 ∧
    linesDue 0 0 24 46 = 24 ∧ linesDue 0 0 24 45 = 23 ∧ (context 0).total = 3064 ∧
    (exposing State.reset).engine.work = .frame (context 0) ∧
    ({ State.reset with engine.work := .closing 0 23 } : State).engine.work = .closing 0 23 ∧
    State.reset.engine.work = .idle ∧ ({ State.reset with due.frameEnd := true } : State).due.frameEnd = true ∧
    (withOrder (order .active (cnt 4 2 4 0 0))).current = some 0 ∧
    ({ order .active (cnt 4 2 4 0 0) with holds := ⟨true, false, false, false⟩ } : Order).holds.isEmpty = false ∧
    ({ State.reset with ctl.pausePending := true } : State).ctl.pausePending = true := by decide

/-- A state in which a frame is about to start: a READY magazine threaded, an ACTIVE order, LINE_RUN. -/
def aboutToPrint : State :=
  { withOrder { order .active (cnt 0 0 10 0 0) with bins := [1] } with
    transport := threaded.transport, cal.calibrated := true }

/-- A frame with one line to write, when a second frame of the order may start at its end. -/
def aboutToEnd : State :=
  { exposing aboutToPrint with
    engine.work := .frame (context 3063), transport.position := 6125, transport.motor := true }

/-- A frame that starts from rest, and one that starts back to back in the step that ends the one before. -/
theorem test_wit_FramesStartOnlyWhenAllowed :
    aboutToPrint.writing = false ∧
    (match exec (.lineRun hL) aboutToPrint with
      | .next t => t.writing
      | _ => false) = true ∧
    aboutToEnd.engine.work = .frame (context 3063) ∧
    (match exec (.encoderTransition true) aboutToEnd with
      | .next t => match t.engine.work with
        | .frame f => decide (f.start = 6128 ∧ f.next = 0)
        | _ => false
      | _ => false) = true := by decide

/-- A LINE_STATUS frame as its bits, most significant bit of each byte first; one bit more is a transfer
that ended partway through a byte (R176, R177). -/
theorem test_bits_of_a_frame :
    parseBits .line (presentBits [47, 9, 0, 0]) = some (.lineStatus ⟨.line, 9⟩) ∧
      parseBits .line (presentBits [47, 9, 0, 0] ++ [true]) =
        some (.malformedRequestFrame .line [47, 9, 0, 0] true) ∧
      parseBits .line (presentBits [0, 0, 0]) = some (.replyRead .line 2) ∧
      parseBits .line [false, true] = none := by decide

/-- The outputs of a part just powered on: head power on, all else off or 0. -/
theorem test_outputs_at_reset :
    State.reset.headPower = true ∧ State.reset.motorRun = false ∧ State.reset.slotFeed .m1 = false ∧
      State.reset.bladeDrive = false ∧ State.reset.pumpOutput = false ∧
      State.reset.processorStop = false ∧ State.reset.binSelect = 0 ∧ State.reset.binGate = false ∧
      State.reset.backPrint = (false, 0, 0) ∧ State.reset.driveCode .r 0 = some 0 := by decide

end Sys2Proof.Tests
end

section
/-! Proofs of pricing and settlement (chapter 2). Every stage of the breakdown is monotone in what it takes
from the stages before it; the inputs of a settlement lie below those of the quote; so does each of its
values (R47). -/

namespace Sys2Proof.Machine

/-! ### The money arithmetic -/

theorem bounded_mono {x y : Nat} (h : x ≤ y) : bounded x ≤ bounded y := min_le_min_right _ h

theorem roundHalfUp_mono {x y : Nat} (h : x ≤ y) (z : Nat) : roundHalfUp x z ≤ roundHalfUp y z :=
  Nat.div_le_div_right (by omega)

theorem total_le_total {xs ys : List Nat} (h : List.Forall₂ (· ≤ ·) xs ys) : total xs ≤ total ys :=
  h.sum_le_sum

/-! ### The discount (stage 4 of R40) -/

/-- The rounded discount rises by 0 or 1 with its base: 500 thousandths of one are the half that is rounded
up. -/
theorem discount_succ (x : Nat) {d : Nat} (hd : d ≤ 500) :
    roundHalfUp (x * d) 1000 ≤ roundHalfUp ((x + 1) * d) 1000 ∧
      roundHalfUp ((x + 1) * d) 1000 ≤ roundHalfUp (x * d) 1000 + 1 := by
  have hbase : (x + 1) * d = x * d + d := Nat.succ_mul x d
  simp only [roundHalfUp, hbase]
  omega

theorem discount_le (x : Nat) {d : Nat} (hd : d ≤ 500) : roundHalfUp (x * d) 1000 ≤ x := by
  have hbase : x * d ≤ x * 500 := Nat.mul_le_mul_left x hd
  simp only [roundHalfUp]
  omega

theorem discounted_succ (x : Nat) {d : Nat} (hd : d ≤ 500) :
    x - roundHalfUp (x * d) 1000 ≤ x + 1 - roundHalfUp ((x + 1) * d) 1000 ∧
      x + 1 - roundHalfUp ((x + 1) * d) 1000 ≤ x - roundHalfUp (x * d) 1000 + 1 := by
  obtain ⟨hlow, hhigh⟩ := discount_succ x hd
  have hle := discount_le x hd
  omega

theorem discounted_mono {d : Nat} (hd : d ≤ 500) : Monotone fun x => x - roundHalfUp (x * d) 1000 :=
  monotone_nat_of_le_succ fun x => (discounted_succ x hd).1

/-! ### The breakdown -/

/-- Each of the seven values of `x` is at most that of `y`. -/
structure Breakdown.AtMost (x y : Breakdown) : Prop where
  g : x.g ≤ y.g
  e : x.e ≤ y.e
  d : x.d ≤ y.d
  n : x.n ≤ y.n
  t : x.t ≤ y.t
  a : x.a ≤ y.a
  f : x.f ≤ y.f

/-! Each value of the breakdown from the values of the stages before it. -/

section Stages

variable (cs : List Nat) (i : Nat) (gl : Globals) (express : Bool) (promo : Nat)

theorem breakdown_g :
    (breakdown cs i gl express promo).g = bounded (total (cs.map bounded) + i) := rfl

theorem breakdown_e :
    (breakdown cs i gl express promo).e =
      if express then bounded (roundHalfUp ((breakdown cs i gl express promo).g * gl.express) 1000)
      else 0 := rfl

theorem breakdown_d :
    (breakdown cs i gl express promo).d =
      roundHalfUp (((breakdown cs i gl express promo).g + (breakdown cs i gl express promo).e) * promo)
        1000 := rfl

theorem breakdown_n :
    (breakdown cs i gl express promo).n =
      if (breakdown cs i gl express promo).g = 0 then 0
      else bounded (max (bounded ((breakdown cs i gl express promo).g +
        (breakdown cs i gl express promo).e - (breakdown cs i gl express promo).d)) gl.minCharge) := rfl

theorem breakdown_t :
    (breakdown cs i gl express promo).t =
      bounded (roundHalfUp ((breakdown cs i gl express promo).n * gl.tax) 10000) := rfl

theorem breakdown_a :
    (breakdown cs i gl express promo).a =
      bounded ((breakdown cs i gl express promo).n + (breakdown cs i gl express promo).t) := rfl

theorem breakdown_f :
    (breakdown cs i gl express promo).f =
      bounded ((2 * (breakdown cs i gl express promo).a + gl.cashStep) / (2 * gl.cashStep) *
        gl.cashStep) := rfl

theorem breakdown_n_of_g_eq_zero (h : (breakdown cs i gl express promo).g = 0) :
    (breakdown cs i gl express promo).n = 0 := by
  rw [breakdown_n, if_pos h]

end Stages

/-- One inequality for each stage of R40, each from those of the stages before it. -/
theorem breakdown_atMost {cs qs : List Nat} {i j promo : Nat} (gl : Globals) (express : Bool)
    (hpromo : promo ≤ 500) (hcharges : List.Forall₂ (· ≤ ·) cs qs) (hindex : i ≤ j) :
    (breakdown cs i gl express promo).AtMost (breakdown qs j gl express promo) := by
  have hg : (breakdown cs i gl express promo).g ≤ (breakdown qs j gl express promo).g := by
    have hbounded : List.Forall₂ (· ≤ ·) (cs.map bounded) (qs.map bounded) :=
      List.rel_map (fun _ _ h => bounded_mono h) hcharges
    simp only [breakdown_g]
    exact bounded_mono (Nat.add_le_add (total_le_total hbounded) hindex)
  have he : (breakdown cs i gl express promo).e ≤ (breakdown qs j gl express promo).e := by
    simp only [breakdown_e]
    cases express with
    | true => exact bounded_mono (roundHalfUp_mono (Nat.mul_le_mul_right gl.express hg) 1000)
    | false => exact Nat.le_refl 0
  have hbase := Nat.add_le_add hg he
  have hd : (breakdown cs i gl express promo).d ≤ (breakdown qs j gl express promo).d := by
    simp only [breakdown_d]
    exact roundHalfUp_mono (Nat.mul_le_mul_right promo hbase) 1000
  have hn : (breakdown cs i gl express promo).n ≤ (breakdown qs j gl express promo).n := by
    by_cases hzero : (breakdown cs i gl express promo).g = 0
    · rw [breakdown_n_of_g_eq_zero _ _ _ _ _ hzero]
      exact Nat.zero_le _
    · have hpos : (breakdown qs j gl express promo).g ≠ 0 := by omega
      rw [breakdown_n, breakdown_n, if_neg hzero, if_neg hpos]
      exact bounded_mono (max_le_max_right _ (bounded_mono (discounted_mono hpromo hbase)))
  have ht : (breakdown cs i gl express promo).t ≤ (breakdown qs j gl express promo).t := by
    simp only [breakdown_t]
    exact bounded_mono (roundHalfUp_mono (Nat.mul_le_mul_right gl.tax hn) 10000)
  have ha : (breakdown cs i gl express promo).a ≤ (breakdown qs j gl express promo).a := by
    simp only [breakdown_a]
    exact bounded_mono (Nat.add_le_add hn ht)
  have hf : (breakdown cs i gl express promo).f ≤ (breakdown qs j gl express promo).f := by
    simp only [breakdown_f]
    exact bounded_mono (Nat.mul_le_mul_right _ (Nat.div_le_div_right (by omega)))
  exact ⟨hg, he, hd, hn, ht, ha, hf⟩

/-! ### The settlement's inputs against the quote's -/

/-- A sum of quantities reads the items only through their products and quantities. -/
theorem Order.sumOf_quantity (o : Order) (p : Nat) :
    o.sumOf p (·.n.q) =
      total (((o.items.map fun i => (i.product, i.n.q)).filter fun x => x.1 == p).map Prod.snd) := by
  simp [Order.sumOf, List.filter_map, Function.comp_def]

theorem Order.sumOf_charged_le (o : Order) (p : Nat) :
    o.sumOf p (fun i => charged i.n) ≤ o.sumOf p (·.n.q) :=
  List.sum_le_sum fun i _ => Nat.sub_le i.n.q i.n.s

/-- R44, R47: with the items and quantities of the commit, Cp is at most Np. -/
theorem Order.sumOf_charged_le_quoted {o o' : Order} (p : Nat)
    (hitems : o'.items.map (fun i => (i.product, i.n.q)) = o.items.map fun i => (i.product, i.n.q)) :
    o'.sumOf p (fun i => charged i.n) ≤ o.sumOf p (·.n.q) :=
  calc o'.sumOf p (fun i => charged i.n)
      _ ≤ o'.sumOf p (·.n.q) := o'.sumOf_charged_le p
      _ = o.sumOf p (·.n.q) := by rw [o'.sumOf_quantity, o.sumOf_quantity, hitems]

theorem np_of_mem_lockEntries {t : PriceTable} {o : Order} {e : LockEntry} (h : e ∈ lockEntries t o) :
    e.np = o.sumOf e.product (·.n.q) := by
  obtain ⟨p, -, rfl⟩ := List.mem_map.1 h
  rfl

/-- Entry by entry, the charge Up × Cp is at most the quoted Up × Np. -/
theorem settlement_charges_le {t : PriceTable} {o o' : Order}
    (hitems : o'.items.map (fun i => (i.product, i.n.q)) = o.items.map fun i => (i.product, i.n.q)) :
    List.Forall₂ (· ≤ ·)
      (List.zipWith (fun (e : LockEntry) c => e.up * c) (lockEntries t o)
        ((lockEntries t o).map fun e => o'.sumOf e.product fun i => charged i.n))
      ((lockEntries t o).map fun e => e.up * e.np) := by
  rw [List.zipWith_map_right, List.zipWith_self, List.forall₂_map_left_iff, List.forall₂_map_right_iff,
    List.forall₂_same]
  intro e he
  rw [np_of_mem_lockEntries he]
  exact Nat.mul_le_mul_left e.up (Order.sumOf_charged_le_quoted e.product hitems)

theorem indexCharge_le {charged requested : Bool} (price : Nat) (h : charged = true → requested = true) :
    (if charged then price else 0) ≤ if requested then price else 0 := by
  cases charged with
  | true => simp [h rfl]
  | false => simp

theorem settlement_atMost_quote (u : PriceUnit) {o o' : Order} (hpromo : o.promo ≤ 500)
    (hservice : o'.service = o.service) (hsame : o'.promo = o.promo)
    (hitems : o'.items.map (fun i => (i.product, i.n.q)) = o.items.map fun i => (i.product, i.n.q))
    (hindex : o'.indexCharged = true → o.indexRequested = true) :
    (settlement (priceLock u o) o').values.AtMost (priceLock u o).quote := by
  simp only [settlement, priceLock, quote, hservice, hsame]
  exact breakdown_atMost _ _ hpromo (settlement_charges_le hitems) (indexCharge_le _ hindex)

end Sys2Proof.Machine

namespace Sys2Proof.Proofs

open Sys2Proof.Machine

/-- Settles O26: the discount rises by at most its base, the breakdown is monotone stage by stage, and a
settlement's charges and index price are bounded by the quote's. -/
theorem settlementNeverAboveQuote : Obligations.SettlementNeverAboveQuote := by
  refine ⟨fun x d hd => discounted_succ x hd, ?_, ?_⟩
  · rintro cs qs i j promo gl express x y hpromo hcharges hindex rfl rfl
    obtain ⟨hg, he, hd, hn, ht, ha, hf⟩ := breakdown_atMost gl express hpromo hcharges hindex
    exact ⟨breakdown_n_of_g_eq_zero _ _ _ _ _, hg, he, hd, hn, ht, ha, hf⟩
  · rintro u o o' l x - hpromo rfl hservice hsame hitems hindex rfl
    obtain ⟨hg, he, hd, hn, ht, ha, hf⟩ := settlement_atMost_quote u hpromo hservice hsame hitems hindex
    exact ⟨hg, he, hd, hn, ht, ha, hf, by omega⟩

end Sys2Proof.Proofs
end

section
/-! Proofs of the flags of the agent ports (11.3). A flag request is open to every port and answers with its
block's state; a bit of the condition word is set exactly when the flag it names has its condition; the five
conditions say what 11.3's table says. -/

namespace Sys2Proof.Machine

/-! ### Words and their bits -/

/-- A word lies within a set of bits exactly when it has none of the others. -/
theorem and_eq_self_iff_and_not_eq_zero {w : Nat} (m f : BitVec w) : m &&& f = m ↔ m &&& ~~~f = 0#w := by
  simp only [BitVec.eq_of_getLsbD_eq_iff, BitVec.getLsbD_and, BitVec.getLsbD_not, BitVec.getLsbD_zero]
  refine forall₂_congr fun i hi => ?_
  cases m.getLsbD i <;> simp [hi]

theorem ne_zero_iff_exists_getLsbD {w : Nat} (x : BitVec w) : x ≠ 0#w ↔ ∃ k, x.getLsbD k = true := by
  constructor
  · intro hx
    exact ⟨_, BitVec.getLsbD_true_ctz_of_ne_zero hx⟩
  · rintro ⟨k, hk⟩ rfl
    simp at hk

/-! ### Requests open to every port (R179) -/

theorem serve_everyPort (s : State) (h : Hdr) (code : Nat) (a : Answer) :
    serve s h code everyPort a = .next (a.state.place h code a.status a.payload) := by
  have hopen : everyPort.contains h.port = true := by cases h.port <;> rfl
  simp only [serve, hopen, if_true]

/-! ### The flag requests (R183) -/

namespace State

theorem namesNoFlag_iff (m : Half) : namesNoFlag m = true ↔ m &&& 0xc000 ≠ 0 := by
  simpa [namesNoFlag, flagBits] using not_congr (and_eq_self_iff_and_not_eq_zero m flagBits)

theorem namesNoFlag_eq_false_iff (m : Half) : namesNoFlag m = false ↔ m &&& 0xc000 = 0 := by
  rw [← Bool.not_eq_true, namesNoFlag_iff, not_not]

theorem flagsClear_of_flags (s : State) (p : Port) {m : Half} (hm : m &&& 0xc000 = 0) :
    s.flagsClear p m =
      let w := ((s.port p).flags &&& ~~~m) ||| (s.conditionWord &&& m)
      ⟨s.modPort (fun x => { x with flags := w }) p, .ok, halfBytes w⟩ := by
  simp [flagsClear, (namesNoFlag_eq_false_iff m).2 hm]

theorem flagsClear_of_noFlag (s : State) (p : Port) {m : Half} (hm : m &&& 0xc000 ≠ 0) :
    s.flagsClear p m = refuse s .eRange := by
  simp only [flagsClear, (namesNoFlag_iff m).2 hm, if_true]

theorem flagsEnable_of_flags (s : State) (p : Port) {m : Half} (hm : m &&& 0xc000 = 0) :
    s.flagsEnable p m = ⟨s.modPort (fun x => { x with enables := m }) p, .ok, []⟩ := by
  simp [flagsEnable, (namesNoFlag_eq_false_iff m).2 hm]

theorem flagsEnable_of_noFlag (s : State) (p : Port) {m : Half} (hm : m &&& 0xc000 ≠ 0) :
    s.flagsEnable p m = refuse s .eRange := by
  simp only [flagsEnable, (namesNoFlag_iff m).2 hm, if_true]

end State

theorem exec_flagsRead_place (h : Hdr) (s : State) :
    exec (.flagsRead h) s = .next (s.place h 50 .ok
      (halfBytes (s.port h.port).flags ++ halfBytes (s.port h.port).enables ++ halfBytes s.conditionWord)) :=
  serve_everyPort s h 50 (s.flagsRead h.port)

theorem exec_flagsClear_place (h : Hdr) (m : Half) (s : State) :
    exec (.flagsClear h m) s = .next ((s.flagsClear h.port m).state.place h 51
      (s.flagsClear h.port m).status (s.flagsClear h.port m).payload) :=
  serve_everyPort s h 51 (s.flagsClear h.port m)

theorem exec_flagsEnable_place (h : Hdr) (m : Half) (s : State) :
    exec (.flagsEnable h m) s = .next ((s.flagsEnable h.port m).state.place h 52
      (s.flagsEnable h.port m).status (s.flagsEnable h.port m).payload) :=
  serve_everyPort s h 52 (s.flagsEnable h.port m)

/-! ### The condition word -/

theorem flagBit_lt (f : Flag) : flagBit f < 16 := by cases f <;> decide

theorem flagBit_injective : Function.Injective flagBit := by
  intro f g
  cases f <;> cases g <;> simp [flagBit]

theorem flagMask_getLsbD (f : Flag) (k : Nat) : (flagMask f).getLsbD k = decide (flagBit f = k) := by
  have hf := flagBit_lt f
  rw [flagMask, BitVec.getLsbD_ofNat, Nat.testBit_two_pow]
  by_cases hk : flagBit f = k <;> simp [hk]
  omega

namespace State

theorem conditionBit_getLsbD (s : State) (f : Flag) (k : Nat) :
    (s.conditionBit f).getLsbD k = (s.condition f && decide (flagBit f = k)) := by
  rw [conditionBit]
  cases s.condition f with
  | true => simp [flagMask_getLsbD]
  | false => simp

/-- The five level flags are all that have a condition (11.3). -/
theorem level_of_condition {s : State} {f : Flag} (h : s.condition f = true) :
    f = .lineFault ∨ f = .paperLow ∨ f = .binAttention ∨ f = .standby ∨ f = .queueBlocked := by
  cases f <;> simp [condition] at h ⊢

theorem conditionWord_getLsbD_iff (s : State) (k : Nat) :
    s.conditionWord.getLsbD k = true ↔ ∃ f, s.condition f = true ∧ flagBit f = k := by
  simp only [conditionWord, BitVec.getLsbD_or, conditionBit_getLsbD, Bool.or_eq_true, Bool.and_eq_true,
    decide_eq_true_eq]
  constructor
  · rintro ((((h | h) | h) | h) | h) <;> exact ⟨_, h⟩
  · rintro ⟨f, h⟩
    obtain rfl | rfl | rfl | rfl | rfl := level_of_condition h.1 <;> simp [h]

theorem conditionWord_getLsbD_flagBit (s : State) (f : Flag) :
    s.conditionWord.getLsbD (flagBit f) = s.condition f := by
  rw [Bool.eq_iff_iff, conditionWord_getLsbD_iff]
  constructor
  · rintro ⟨g, hg, hbit⟩
    rwa [← flagBit_injective hbit]
  · exact fun h => ⟨f, h, rfl⟩

theorem conditionWord_getLsbD_edge (s : State) {k : Nat} (hk : k < 9 ∨ 13 < k) :
    s.conditionWord.getLsbD k = false := by
  rw [← Bool.not_eq_true, conditionWord_getLsbD_iff]
  rintro ⟨f, hf, rfl⟩
  obtain rfl | rfl | rfl | rfl | rfl := level_of_condition hf <;> simp [flagBit] at hk

/-! ### The conditions of the level flags -/

theorem condition_lineFault_iff (s : State) :
    s.condition .lineFault = true ↔ s.ctl.faults ≠ FaultSet.none := by
  simp [condition, noFault]

theorem magLow_iff (s : State) (m : MagSlot) :
    s.magLow m = true ↔ s.magState m = .low ∨ s.magState m = .empty := by
  rw [magLow]
  cases s.magState m <;> simp

theorem condition_paperLow_iff (s : State) :
    s.condition .paperLow = true ↔ ∃ m, s.magState m = .low ∨ s.magState m = .empty := by
  simp only [condition, Bool.or_eq_true, magLow_iff]
  constructor
  · rintro (h | h) <;> exact ⟨_, h⟩
  · rintro ⟨m, h⟩
    cases m with
    | m1 => exact .inl h
    | m2 => exact .inr h

theorem condition_binAttention_iff (s : State) :
    s.condition .binAttention = true ↔ (∃ b ∈ s.sorter.bins, b.state = .purge) ∨ 0 < s.sorter.reject := by
  simp [condition]

theorem condition_standby_iff (s : State) : s.condition .standby = true ↔ s.ctl.line = .standby := by
  simp [condition]

theorem condition_queueBlocked_iff (s : State) :
    s.condition .queueBlocked = true ↔ s.sched.queueBlocked = true := Iff.rfl

/-! ### The attention outputs (R184) -/

theorem attention_iff (s : State) (p : Port) :
    s.attention p = true ↔ ∃ k, (s.port p).flags.getLsbD k = true ∧ (s.port p).enables.getLsbD k = true := by
  rw [attention, bne_iff_ne]
  simpa using ne_zero_iff_exists_getLsbD ((s.port p).flags &&& (s.port p).enables)

end State

end Sys2Proof.Machine

namespace Sys2Proof.Proofs

open Sys2Proof.Machine Sys2Proof.Machine.State

/-- Settles O7: each request by its block's answer, each bit of the condition word by the flag it names. -/
theorem flagRequestsActOnTheirOwnPort : Obligations.FlagRequestsActOnTheirOwnPort := by
  refine ⟨fun h m s => ⟨exec_flagsRead_place h s, ?_, ?_⟩, fun s => ⟨?_, ?_, ?_, ?_, ?_, ?_, ?_⟩⟩
  · rintro hm w rfl
    rw [exec_flagsClear_place, exec_flagsEnable_place, flagsClear_of_flags s _ hm, flagsEnable_of_flags s _ hm]
    exact ⟨rfl, rfl⟩
  · intro hm
    rw [exec_flagsClear_place, exec_flagsEnable_place, flagsClear_of_noFlag s _ hm,
      flagsEnable_of_noFlag s _ hm]
    exact ⟨rfl, rfl⟩
  · rw [← s.condition_lineFault_iff, ← s.conditionWord_getLsbD_flagBit, flagBit]
  · rw [← s.condition_paperLow_iff, ← s.conditionWord_getLsbD_flagBit, flagBit]
  · rw [← s.condition_binAttention_iff, ← s.conditionWord_getLsbD_flagBit, flagBit]
  · rw [← s.condition_standby_iff, ← s.conditionWord_getLsbD_flagBit, flagBit]
  · rw [← s.condition_queueBlocked_iff, ← s.conditionWord_getLsbD_flagBit, flagBit]
  · exact fun k hk => s.conditionWord_getLsbD_edge hk
  · exact s.attention_iff

end Sys2Proof.Proofs
end


section
/-! What a command can do, said once. Every command is a chain of acts (`Act`), each a named operation of one
block under the guard that the model sets, and then comes to rest; the invariants of the later files are
proved of each act. An act of no account to them (a setting, a timer, a flag) is an `Aside`.

Here and in the files that follow, declarations are elaborated one after another: side by side, behind the
model's long tests, they take more threads than the check's memory limit holds. -/

set_option Elab.async false

namespace Sys2Proof.Machine

/-! ### What the acts are told apart by -/

/-- What R114 relates: position, ENCODER condition, dead reckoning, and that no probe runs. -/
def Transport.course (t : Transport) : Nat × Bool × Option DeadReckoning × Bool :=
  (t.position, t.encoder, t.deadReckoning, t.probe.isNone)

/-- What a web record carries. -/
def WebRecord.load (r : WebRecord) : RecordKind × Option OrderItem := (r.kind, r.order)

/-- The ports less their flag copies: holders, enables and what data out presented. -/
def Ports.posts (p : Ports) : Ports := ⟨p.order.lasting, p.till.lasting, p.line.lasting⟩

/-- The posts of a state's ports. -/
def State.posts (s : State) : Ports := s.ports.posts

theorem State.posts_of_lasting {s t : State} (h : t.lasting = s.lasting) : t.posts = s.posts :=
  congrArg State.ports h

/-- An order record less what no account of prints and bins rests on: the holds, the settlement, the payment
and the inspect mark. -/
def Order.ledger (o : Order) : Order :=
  { o with holds := Holds.none, settled := none, paid := none, inspect := false }

/-- Price tables and generation are within their bounds. -/
def PriceUnit.Sound (u : PriceUnit) : Prop :=
  u.active.sound = true ∧ u.staged.sound = true ∧ u.generation < 65536

/-- Curves, drive tables and staged corrections are within their bounds. -/
def Engine.TablesSound (e : Engine) : Prop :=
  surfaceAll curveSound e.curves = true ∧ rgbAll driveSound e.drive = true ∧
    surfaceAll Corr.sound e.staged = true

/-- The three requests that write the price tables (R33, R35, R36). -/
def pricing : Instr → Bool
  | .priceStage _ _ | .priceStageGlobals _ _ | .priceActivate _ => true
  | _ => false

/-- `t` comes of `s` by what neither the stored data, nor the orders, nor the prints' way, nor dead reckoning
rests on: of the frame being written at most lines more are written, or it ends. -/
structure Aside (s t : State) : Prop where
  stored : t.stored = s.stored
  book : t.book = s.book
  bins : t.sorter.bins = s.sorter.bins
  web : t.cutter.web.map WebRecord.load = s.cutter.web.map WebRecord.load
  sheets : t.monitor.sheets.map (·.order) = s.monitor.sheets.map (·.order)
  work : ∀ f, t.engine.work = .frame f → ∃ g, s.engine.work = .frame g ∧ f = { g with next := f.next }
  course : t.transport.course = s.transport.course
  posts : t.ports.posts = s.ports.posts

namespace Aside

/-- An aside that leaves the engine's work. -/
theorem plain {s t : State} (stored : t.stored = s.stored) (book : t.book = s.book)
    (bins : t.sorter.bins = s.sorter.bins)
    (web : t.cutter.web.map WebRecord.load = s.cutter.web.map WebRecord.load)
    (sheets : t.monitor.sheets.map (·.order) = s.monitor.sheets.map (·.order))
    (work : t.engine.work = s.engine.work) (course : t.transport.course = s.transport.course)
    (posts : t.ports.posts = s.ports.posts := by rfl) : Aside s t :=
  ⟨stored, book, bins, web, sheets, fun f h => ⟨f, work ▸ h, rfl⟩, course, posts⟩

theorem refl (s : State) : Aside s s := plain rfl rfl rfl rfl rfl rfl rfl

theorem trans {s t u : State} (h : Aside s t) (k : Aside t u) : Aside s u where
  stored := k.stored.trans h.stored
  book := k.book.trans h.book
  bins := k.bins.trans h.bins
  web := k.web.trans h.web
  sheets := k.sheets.trans h.sheets
  work f hf := by
    obtain ⟨g, hg, e⟩ := k.work f hf
    obtain ⟨g', hg', e'⟩ := h.work g hg
    exact ⟨g', hg', by rw [e, e']⟩
  course := k.course.trans h.course
  posts := k.posts.trans h.posts

/-- An aside that comes first, where the state between the two is read off the aside that follows. -/
theorem after {s t u : State} (k : Aside t u) (h : Aside s t) : Aside s u := h.trans k

end Aside

/-- The acts of a command `c` that write the stored data. -/
inductive Storing (c : Instr) : State → State → Prop
  /-- IMAGE_LOAD takes its pages (R28). -/
  | loads {s : State} {k n : Nat} {z : ImageSize} {l : Load}
      (room : n ≤ s.images.freePages + (s.images.slot k).pages.length) :
      Storing c s { s with images :=
        { (s.images.modSlot k fun x => { x with pages := [] }).modSlot k (fun x =>
          { x with
            state := .loading, size := some z
            pages := (s.images.modSlot k fun x => { x with pages := [] }).take n }) with
        load := some l } }
  /-- A slot goes FREE (R30, R31). -/
  | freesSlot {s : State} {k : Nat} : Storing c s (s.freeSlot k)
  /-- A word of the image link is stored (R29). -/
  | takesWord {s : State} {w : Half} {lv : Bool} {l : Load} {x : ImageSlot} {z : ImageSize}
      (strobe : c = .imageWordStrobe w lv) : Storing c s (s.takeWord l x z w)
  /-- The price tables are written (R33, R35, R36). -/
  | prices {s : State} {p : PriceUnit} (stages : pricing c = true) (sound : s.prices.Sound → p.Sound) :
      Storing c s { s with prices := p }
  /-- Exposure tables or staged corrections are written (R80, R81, R85). -/
  | tables {s : State} {e : Engine} (work : e.work = s.engine.work)
      (sound : s.engine.TablesSound → e.TablesSound) : Storing c s { s with engine := e }
  /-- A calibration's trims are written (R99). -/
  | trims {s : State} {k : CalUnit}
      (sound : rgbAll trimSound s.cal.trim = true → rgbAll trimSound k.trim = true) :
      Storing c s { s with cal := k }

/-- The acts that write what R114 relates. -/
inductive Steering : State → State → Prop
  /-- The position follows the encoder (R109). -/
  | counts {s : State} {p : Nat} (bound : p ≤ Config.positionMax ∨ p ≤ s.transport.position)
      (free : s.transport.deadReckoning = none ∨ s.transport.probe.isSome = true) :
      Steering s { s with transport.position := p }
  /-- The position follows dead reckoning (R114). -/
  | reckons {s : State} {us : Nat} {d : DeadReckoning} (force : s.reckons = true)
      (reckoning : (s.elapse us).transport.deadReckoning = some d) :
      Steering s { s.elapse us with transport.position := d.position }
  /-- The ENCODER condition arises (R114). -/
  | arises {s : State} {v : Nat} :
      Steering s { s with
        transport.encoder := true, transport.deadReckoning := some ⟨s.transport.position, v, 0⟩ }
  /-- The ENCODER condition goes (R115, R171). -/
  | recovers {s : State} {t : Transport} (absent : t.encoder = false) (ended : t.deadReckoning = none)
      (bound : t.position ≤ s.transport.position) : Steering s { s with transport := t }
  /-- A clear probe starts (R115). -/
  | probes {s : State} {p : Probe} : Steering s { s with transport.probe := some p }
  /-- A clear probe fails (R115). -/
  | probeEnds {s : State} : Steering s ({ s with transport.probe := none }.rebase)

/-- One act of a command `c`, from the state before it to the state after it. -/
inductive Act (c : Instr) : State → State → Prop
  | aside {s t : State} (h : Aside s t) : Act c s t
  | stores {s t : State} (h : Storing c s t) : Act c s t
  | steers {s t : State} (h : Steering s t) : Act c s t
  /-- ORDER_OPEN (R2). -/
  | opens {s : State} {i n promo : Nat} {origin : Origin} {service : Service} {index : Bool}
      (free : firstRecord (fun o => !o.live) s.book.records = some i) (named : n ≠ 0)
      (unused : s.findLive n = none) :
      Act c s (s.modOrder i fun _ =>
        { Order.free with
          number := n, state := .opened, origin := origin, service := service, promo := promo
          indexRequested := index, index := if index then some ⟨none, Counts.new 1⟩ else none })
  /-- ITEM_ADD (R4). -/
  | addsItem {s : State} {i q : Nat} {x : Item} (opened : (s.orderAt i).state = .opened)
      (new : x.n = Counts.new q) :
      Act c s (s.modOrder i fun o => { o with items := o.items ++ [x] })
  /-- ITEM_REMOVE (R5). -/
  | dropsItem {s : State} {i k : Nat} (opened : (s.orderAt i).state = .opened) :
      Act c s (s.modOrder i fun o => o.dropItem k)
  /-- The items of a slot leave the OPEN orders (R30). -/
  | dropsSlot {s : State} {k : Nat} : Act c s (s.removeSlotItems k)
  /-- ORDER_COMMIT (R13). -/
  | commits {s : State} {i : Nat} {pre : Bool} (opened : (s.orderAt i).state = .opened)
      (few : State.ordered (s.orderAt i) ≤ 400) :
      Act c s (({ s.modOrder i (fun _ => s.committed (s.orderAt i) pre) with
        book.sequence := s.book.sequence + 1 } : State).setOrderState i .queued)
  /-- ORDER_WITHDRAW (R15). -/
  | withdraws {s : State} {i : Nat} (queued : (s.orderAt i).state = .queued)
      (fresh : (s.orderAt i).started = false) :
      Act c s (((s.setOrderState i .opened).freeBinList (s.orderAt i).bins).modOrder i fun o =>
        { o with
          lock := none, sequence := none, settled := none, bins := []
          index := o.index.map fun x => { x with product := none } })
  /-- An OPEN order is freed (R16, R17). -/
  | discards {s : State} {i : Nat} (opened : (s.orderAt i).state = .opened) : Act c s (s.freeOrder i)
  /-- ORDER_COLLECT (R50, R160). -/
  | collects {s : State} {i : Nat} (ready : (s.orderAt i).state = .ready) :
      Act c s ((s.freeBinList (s.orderAt i).bins).freeOrder i)
  /-- ORDER_CANCEL of a committed order (R17). -/
  | cancels {s : State} {i : Nat} (committed : (s.orderAt i).committedState = true) : Act c s (s.cancel i)
  /-- A record is changed where no account rests on it (R43, R48). -/
  | notes {s : State} {i : Nat} {f : Order → Order} (same : ∀ o, (f o).ledger = o.ledger) :
      Act c s (s.modOrder i f)
  /-- A hold reason is added (R19, R20). -/
  | holds {s : State} {i : Nat} {r : Hold} : Act c s (s.addHold i r)
  /-- ORDER_RELEASE (R21). -/
  | releases {s : State} {i : Nat} {p : Port} : Act c s ((s.modOrder i fun o => o.release p).leaveHeld i)
  /-- PAPER is taken from a record (R22). -/
  | unpapers {s : State} {i : Nat} : Act c s (s.releasePaper1 i)
  /-- ORDER_REPRINT (R26, R159). -/
  | reprints {s : State} {i k n : Nat} {x : Item} (ready : (s.orderAt i).state = .ready) (item : k ≠ 0)
      (found : (s.orderAt i).items[k - 1]? = some x) (few : State.printsWith (s.orderAt i) n ≤ 400) :
      Act c s (((s.moveCounts i k fun m => { m with c := m.c + n, p := m.p + n }).reopenBins
        (s.orderAt i).bins).setOrderState i .queued)
  /-- ITEM_SKIP (R11). -/
  | skips {s : State} {i k : Nat} (inside : (s.orderAt i).outsideHold = false) :
      Act c s ((s.moveCounts i k fun m => { m with p := 0, s := m.s + m.p }).afterSkip i)
  /-- A PURGE bin is emptied (R162). -/
  | empties {s : State} {b : Nat} (purge : (s.sorter.bin b).state = .purge) : Act c s (s.freeBinList [b])
  /-- The head sheet is lost (R150). -/
  | losesHead {s : State} : Act c s s.loseHead
  /-- The head sheet arrives and is sorted (R148, R156). -/
  | sorts {s : State} {x : Sheet} {rest : List Sheet} (head : s.monitor.sheets = x :: rest) :
      Act c s (({ s with monitor.sheets := rest }.dueAttempt).sortSheet x)
  /-- The frame being written is aborted, its record WASTE (R90, R91). -/
  | aborts {s : State} (writing : s.writing = true) : Act c s s.abortFrame.wasteLast
  /-- The web list is dropped (R127). -/
  | dropsWeb {s : State} (idle : s.writing = false) : Act c s s.dropWeb
  /-- The ACTIVE order at a line reset (R25). -/
  | resetsActive {s : State} : Act c s s.resetActive
  /-- A due cut fires (R135, R137). -/
  | cuts {s : State} (due : s.cutter.cutDue s.transport.position = true) : Act c s s.fireCut
  /-- A closing gap is appended and written (R76, R140). -/
  | gaps {s : State} {start : Nat} : Act c s { s with
      cutter.web := s.cutter.web ++ [s.cutter.newRecord .closing none start 48 0]
      engine.work := .closing start 0 }

/-- A chain of acts of a command. -/
def Acts (c : Instr) : State → State → Prop := Relation.ReflTransGen (Act c)

namespace Acts

variable {c : Instr} {s t u : State}

theorem refl : Acts c s s := Relation.ReflTransGen.refl

theorem trans (h : Acts c s t) (k : Acts c t u) : Acts c s u := Relation.ReflTransGen.trans h k

theorem single (k : Act c s t) : Acts c s t := Relation.ReflTransGen.single k

theorem act (h : Acts c s t) (k : Act c t u) : Acts c s u := h.trans (single k)

theorem aside (h : Acts c s t) (k : Aside t u) : Acts c s u := h.act (.aside k)

theorem of_aside (k : Aside s t) : Acts c s t := single (.aside k)

/-- A chain that comes first, where the state between the two is read off the chain that follows. -/
theorem after (k : Acts c t u) (h : Aside s t) : Acts c s u := (of_aside h).trans k

/-- A property of states that every act keeps holds after a chain of acts. -/
theorem keeps {P : State → Prop} (hP : ∀ s t, Act c s t → P s → P t) (h : Acts c s t) (hs : P s) : P t := by
  induction h with
  | refl => exact hs
  | tail _ a ih => exact hP _ _ a ih

end Acts

end Sys2Proof.Machine
end


section
/-! The operations of the blocks as asides and as chains of acts, one lemma for each. -/

set_option Elab.async false

namespace Sys2Proof.Machine

theorem TrSame.course {a b : Transport} (h : TrSame a b) : b.course = a.course := by rw [h]; rfl

namespace State

/-! ### Asides -/

theorem syncMotor_aside (s : State) : Aside s s.syncMotor := by
  refine .plain (syncMotor_stored s) (syncMotor_book s) ?_ ?_ ?_ ?_ (syncMotor_tr s).course
      (posts_of_lasting (syncMotor_lasting s)) <;>
  · simp only [syncMotor]
    split
    · rfl
    · split <;> rfl

theorem copyCorrections_aside (s : State) : Aside s s.copyCorrections := by
  refine .plain (copyCorrections_stored s) (copyCorrections_book s) ?_ ?_ ?_ ?_ ?_
      (posts_of_lasting (copyCorrections_lasting s)) <;>
  · simp only [copyCorrections]
    split <;> rfl

theorem setLine_aside (s : State) (l : LineState) : Aside s (s.setLine l) := by
  have hline : ∀ t : State, Aside t ({ t with ctl.line := l } : State).syncMotor := fun t =>
    (syncMotor_aside _).after (.plain rfl rfl rfl rfl rfl rfl rfl)
  simp only [setLine]
  split
  · exact (copyCorrections_aside s).trans (hline _)
  · exact hline s

/-- What a flush's stop does to the engine's work is an aside: a frame is left as it is. -/
theorem causeOnLine_aside (s : State) : Aside s s.causeOnLine := by
  have hdue : ∀ t : State, Aside t t.dueScan.dueAttempt := fun _ => .plain rfl rfl rfl rfl rfl rfl rfl
  simp only [causeOnLine]
  split
  · exact setLine_aside s _
  · exact setLine_aside s _
  · refine .trans (.trans ?_ (setLine_aside _ _)) (hdue _)
    split
    · exact ⟨rfl, rfl, rfl, rfl, rfl, (fun f h => nomatch h), rfl, rfl⟩
    · exact .refl s
  · exact .refl s

theorem addCause_aside (s : State) (c : Cause) : Aside s (s.addCause c) := by
  simp only [addCause]
  split
  · exact .refl s
  · exact (causeOnLine_aside _).after (.plain rfl rfl rfl rfl rfl rfl rfl)

theorem setFaults_aside (s : State) (f : FaultSet) : Aside s (s.setFaults f) := by
  have hf : Aside s { s with ctl.faults := f } := .plain rfl rfl rfl rfl rfl rfl rfl
  have hdue : ∀ t : State, Aside t t.dueScan.dueAttempt := fun _ => .plain rfl rfl rfl rfl rfl rfl rfl
  simp only [setFaults]
  split
  · refine hf.trans (.trans ?_ (hdue _))
    split
    · exact setLine_aside _ _
    · exact .refl _
  · exact hf

theorem leaveWork_aside (s : State) : Aside s s.leaveWork :=
  (setLine_aside s _).trans (.plain rfl rfl rfl rfl rfl rfl rfl)

theorem startCalibration_aside (s : State) (k : CalKind) : Aside s (s.startCalibration k) :=
  (setLine_aside _ _).after (.plain rfl rfl rfl rfl rfl rfl rfl)

theorem wake_aside (s : State) : Aside s s.wake := by
  simp only [wake]
  split
  · exact (setLine_aside _ _).after (.plain rfl rfl rfl rfl rfl rfl rfl)
  · exact .refl s

theorem startPump_aside (s : State) : Aside s s.startPump := by
  simp only [startPump]
  split
  · exact .plain rfl rfl rfl rfl rfl rfl rfl
  · exact .refl s

theorem modMag_aside (s : State) (f : Mag → Mag) (m : MagSlot) : Aside s (s.modMag f m) := by
  cases m <;> exact .plain rfl rfl rfl rfl rfl rfl rfl

theorem unthreadEmpty_aside (s : State) : Aside s s.unthreadEmpty := by
  rw [unthreadEmpty_facts]
  exact .plain rfl rfl rfl rfl rfl rfl rfl

theorem consumeRoll_aside (s : State) : Aside s s.consumeRoll := by
  simp only [consumeRoll]
  split
  · exact .refl s
  · exact (modMag_aside s _ _).trans (unthreadEmpty_aside _)

theorem writeLines_aside (s : State) : Aside s s.writeLines := by
  have hwork : ∀ f, s.writeLines.engine.work = .frame f →
      ∃ g, s.engine.work = .frame g ∧ f = { g with next := f.next } := by
    intro f hf
    cases h : s.engine.work with
    | idle => simp [writeLines, h] at hf
    | frame g =>
      simp only [writeLines, h] at hf
      split at hf
      · rw [h] at hf; cases hf; exact ⟨f, rfl, rfl⟩
      · split at hf
        · cases hf
        · cases hf; exact ⟨g, rfl, rfl⟩
    | closing a n =>
      simp only [writeLines, h] at hf
      split at hf
      · rw [h] at hf; cases hf
      · dsimp only at hf
        split at hf <;> cases hf
  refine ⟨writeLines_stored s, writeLines_book s, ?_, ?_, ?_, hwork, ?_, posts_of_lasting (writeLines_lasting s)⟩ <;>
  · rw [writeLines_tr]

end State

/-! ### Marks -/

theorem settleMark_load {f g : WebRecord → WebRecord} (hf : ∀ x, (f x).load = x.load)
    (hg : ∀ x, (g x).load = x.load) (l : List WebRecord) :
    (settleMark f g l).map WebRecord.load = l.map WebRecord.load := by
  induction l using settleMark.induct with
  | case1 => rfl
  | case2 x h => simp [settleMark, h, hf]
  | case3 x h => simp [settleMark, h]
  | case4 x y rest h => simp [settleMark, h, hf]
  | case5 x y rest h k => simp [settleMark, h, k, hf, hg]
  | case6 x y rest h k ih =>
    simp only [settleMark, h, k, Bool.false_eq_true, if_false, List.map_cons, ih]

theorem Cutter.judge_load (c : Cutter) (edge : Nat) :
    (c.judge edge).web.map WebRecord.load = c.web.map WebRecord.load := by
  simp only [judge]
  split
  · rfl
  · split
    · rfl
    · split
      · refine settleMark_load ?_ ?_ _ <;> exact fun _ => rfl
      · rfl

theorem Cutter.recognise_load (c : Cutter) (p : Nat) :
    (c.recognise p).web.map WebRecord.load = c.web.map WebRecord.load := by
  simp only [recognise]
  split
  · split
    · exact judge_load _ _
    · rfl
  · rfl

theorem Cutter.missAll_load (p n : Nat) : ∀ c : Cutter,
    (c.missAll p n).web.map WebRecord.load = c.web.map WebRecord.load := by
  induction n with
  | zero => exact fun _ => rfl
  | succ n ih =>
    intro c
    simp only [missAll]
    split
    · rw [ih]; refine settleMark_load ?_ ?_ _ <;> exact fun _ => rfl
    · rfl

namespace State

variable {c : Instr}

theorem judgeMarks_aside (s : State) : Aside s s.judgeMarks :=
  .plain (judgeMarks_stored s) rfl rfl ((Cutter.missAll_load _ _ _).trans (Cutter.recognise_load _ _)) rfl
    rfl rfl

theorem rejectSheet_aside (s : State) : Aside s s.rejectSheet := by
  have hsort : Aside s (({ s with sorter.reject := min 999 (s.sorter.reject + 1) } : State).steer 0) :=
    .plain rfl rfl rfl rfl rfl rfl rfl
  simp only [rejectSheet]
  split
  · exact hsort.trans (addCause_aside _ _)
  · exact hsort

theorem insertion_aside (s : State) (m : MagSlot) : Aside s (s.insertion m) := by
  simp only [insertion]
  split
  · exact (modMag_aside s _ _).trans (wake_aside _)
  · exact modMag_aside s _ _

theorem enterStandby_aside (s : State) : Aside s s.enterStandby :=
  (setLine_aside _ _).after (.plain rfl rfl rfl rfl rfl rfl rfl)

theorem checkStandby_aside (s : State) : Aside s s.checkStandby := by
  simp only [checkStandby]
  split
  · split
    · exact enterStandby_aside s
    · exact .refl s
  · exact .refl s

theorem raise_aside (s : State) (f : Flag) : Aside s (s.raise f) := .plain rfl rfl rfl rfl rfl rfl rfl

theorem formSpeed_aside (s : State) (n : Nat) : Aside s (s.formSpeed n) := by
  simp only [formSpeed]
  split <;> exact .plain rfl rfl rfl rfl rfl rfl rfl

/-! ### The position -/

theorem encoderArises_acts (s : State) : Acts c s s.encoderArises := by
  refine (Acts.refl.act (.steers .arises)).aside (t := { s with
    transport.encoder := true
    transport.deadReckoning := some ⟨s.transport.position, s.transport.speedInUse, 0⟩ }) ?_
  rw [encoderArises_facts]
  exact .plain rfl rfl rfl (by simp [Function.comp_def, WebRecord.load]) rfl rfl rfl

theorem mismatch_acts (s : State) : Acts c s s.mismatch := by
  have hm : Aside s { s with transport.mismatches := s.transport.mismatches + 1 } :=
    .plain rfl rfl rfl rfl rfl rfl rfl
  simp only [mismatch]
  split
  · exact (Acts.of_aside hm).trans (encoderArises_acts _)
  · exact .of_aside hm

theorem checkIndex_acts (s : State) : Acts c s s.checkIndex := by
  simp only [checkIndex]
  split
  · exact .refl
  · split
    · exact (mismatch_acts _).after (.plain rfl rfl rfl rfl rfl rfl rfl)
    · exact .refl

theorem indexCheck_acts (s : State) (r : Nat) : Acts c s (s.indexCheck r) := by
  have hm : Aside s { s with transport.mismatches := 0, transport.matched := s.transport.motor } :=
    .plain rfl rfl rfl rfl rfl rfl rfl
  simp only [indexCheck]
  split
  · split
    · split
      · exact .of_aside (hm.trans (formSpeed_aside _ _))
      · exact .of_aside hm
    · exact .of_aside hm
  · exact mismatch_acts s

theorem indexPulse_acts (s : State) : Acts c s s.indexPulse := by
  simp only [indexPulse]
  split
  · exact .refl
  · refine Acts.aside (t := match s.transport.indexRef with | none => s | some r => s.indexCheck r) ?_
      (.plain rfl rfl rfl rfl rfl rfl rfl)
    split
    · exact .refl
    · exact indexCheck_acts s _

theorem tryCut_acts (s : State) : Acts c s s.tryCut := by
  simp only [tryCut]
  split
  · next h =>
    split
    · exact .single (.cuts (by simpa using (Bool.and_eq_true _ _ ▸ h).1))
    · exact .of_aside ((addCause_aside _ _).after (.plain rfl rfl rfl rfl rfl rfl rfl))
  · exact .refl

/-- What follows a move of the position is a chain of acts. -/
theorem moveTo_acts {s t : State} {p : Nat} (h : Act c s { t with transport.position := p }) :
    Acts c s (t.moveTo p) :=
  ((((Acts.refl.act h).aside (consumeRoll_aside _)).trans (checkIndex_acts _)).aside
    ((writeLines_aside _).trans (judgeMarks_aside _))).trans (tryCut_acts _)

theorem pass_acts (s : State) (us : Nat) : Acts c s (s.pass us) := by
  have still (h : s.reckons = false) : Acts c s { s with now := s.now + us } :=
    .of_aside (.plain rfl rfl rfl rfl rfl rfl rfl)
  cases h : s.reckons with
  | false => rw [pass_still s us h]; exact still h
  | true =>
    have hd : (s.transport.deadReckoning).isSome = true := by
      simp only [reckons, Bool.and_eq_true] at h; exact h.1.1
    obtain ⟨d, hd⟩ := Option.isSome_iff_exists.1 hd
    rw [pass_reckons s us d h hd]
    exact moveTo_acts (.steers (.reckons h (by simp [elapse, h, hd])))

theorem passTo_acts (s : State) (t : Nat) : Acts c s (s.passTo t) := by
  simp only [passTo]
  split
  · exact pass_acts s _
  · exact .refl

/-! ### Clear probe -/

theorem probePasses_acts (s : State) : Acts c s s.probePasses := by
  have go : Act c s { s with
      transport.probe := none, transport.encoder := false, transport.deadReckoning := none
      transport.indexRef := none, transport.mismatches := 0 } := .steers (.recovers rfl rfl le_rfl)
  refine (Acts.refl.act go).aside (.trans (.trans (.trans ?_ (syncMotor_aside { s with
      transport.probe := none, transport.encoder := false, transport.deadReckoning := none
      transport.indexRef := none, transport.mismatches := 0, ctl.lastProbe := .passed }))
    (setFaults_aside _ _)) (.plain rfl rfl rfl rfl rfl rfl rfl))
  exact .plain rfl rfl rfl rfl rfl rfl rfl

theorem probeFails_acts (s : State) : Acts c s s.probeFails := by
  refine (Acts.refl.act (.steers .probeEnds)).aside (.trans ?_
    (syncMotor_aside ({ s with transport.probe := none, ctl.lastProbe := .failed } : State).rebase))
  exact .plain rfl rfl rfl rfl rfl rfl rfl

theorem breakProbe_acts (s : State) : Acts c s s.breakProbe := by
  simp only [breakProbe]
  split
  · exact probeFails_acts s
  · exact .refl

/-! ### The web and the processor -/

theorem cutOffEngine_acts (s : State) : Acts c s s.cutOffEngine := by
  simp only [cutOffEngine]
  split
  · exact .refl
  · next h => exact .single (.aborts (by simp [writing, h]))
  · exact .of_aside ⟨rfl, rfl, rfl, rfl, rfl, fun f h => (nomatch h), rfl, rfl⟩

theorem abortFrame_work (s : State) (h : s.writing = true) : s.abortFrame.engine.work = .idle := by
  cases hw : s.engine.work with
  | idle => simp [writing, hw] at h
  | closing a n => simp [writing, hw] at h
  | frame f =>
    simp only [abortFrame, frame?, hw]
    exact congrArg (·.engine.work) (spoil?_frame s.endFrame _)

theorem cutOffEngine_writing (s : State) : s.cutOffEngine.writing = false := by
  simp only [cutOffEngine]
  split
  · next h => simp [writing, h]
  · next h =>
    have := abortFrame_work s (by simp [writing, h])
    simp only [writing, wasteLast, this]
  · rfl

theorem startFlush_acts (s : State) : Acts c s s.startFlush := by
  have hline : Acts c s (s.setLine .flushing) := .of_aside (setLine_aside s _)
  simp only [startFlush]
  split
  · exact hline
  · exact (hline.act .gaps).aside (writeLines_aside _)

theorem checkFlush_acts (s : State) : Acts c s s.checkFlush := by
  simp only [checkFlush]
  split
  · split
    · exact startFlush_acts s
    · exact .refl
  · exact .refl

theorem loseHeads_acts (n : Nat) : ∀ s : State, Acts c s (s.loseHeads n) := by
  induction n with
  | zero => exact fun _ => .refl
  | succ n ih => exact fun s => Acts.trans (.single .losesHead) (ih s.loseHead)

theorem jam_acts (s : State) : Acts c s s.jam :=
  (Acts.refl.act .losesHead).aside ((addCause_aside _ _).after (.plain rfl rfl rfl rfl rfl rfl rfl))

theorem checkWatchdog_acts (s : State) : Acts c s s.checkWatchdog := by
  simp only [checkWatchdog]
  split
  · split
    · exact jam_acts s
    · exact .refl
  · exact .refl

theorem arrival_acts (s : State) : Acts c s s.arrival := by
  simp only [arrival]
  split
  · exact .of_aside (rejectSheet_aside s)
  · next h => exact (Acts.refl.act (.sorts h)).trans (checkWatchdog_acts _)

/-! ### Orders -/

theorem foldl_unpapers_acts (l : List Nat) : ∀ s : State, Acts c s (l.foldl releasePaper1 s) := by
  induction l with
  | nil => exact fun _ => .refl
  | cons i l ih => exact fun s => Acts.trans (.single .unpapers) (ih _)

theorem releasePaper_acts (s : State) : Acts c s s.releasePaper := foldl_unpapers_acts _ s

theorem giveUp_acts (s : State) (o : Option MagSlot) : Acts c s (s.giveUp o) := by
  rcases giveUp_cases s o with h | h <;> rw [h]
  · exact .refl
  · exact releasePaper_acts s

theorem loadFault_acts (s : State) (k : Nat) : Acts c s (s.loadFault k) := by
  have hload : Aside s { s with images.load := none } := .plain rfl rfl rfl rfl rfl rfl rfl
  exact (((Acts.of_aside hload).act .dropsSlot).act (.stores .freesSlot)).aside (raise_aside _ _)

/-! ### Magazines -/

theorem loseIncoming_acts (s : State) : Acts c s s.loseIncoming := by
  have hleave : Acts c s (({ s with transport.changeover := none } : State).clearRequest.leaveWork) :=
    .of_aside ((leaveWork_aside _).after (.plain rfl rfl rfl rfl rfl rfl rfl))
  simp only [loseIncoming]
  split
  · exact hleave.act .holds
  · exact hleave

theorem removal_acts (s : State) (m : MagSlot) : Acts c s (s.removal m) := by
  have hmag : Acts c s (s.modMag Mag.remove m) := .of_aside (modMag_aside s _ _)
  simp only [removal]
  split
  · exact hmag.trans (loseIncoming_acts _)
  · exact hmag

theorem webBreak_acts (s : State) (m : MagSlot) : Acts c s (s.webBreak m) := by
  have hmag : Aside s { s.modMag Mag.remove m with transport.threaded := none } :=
    (modMag_aside s _ _).trans (.plain rfl rfl rfl rfl rfl rfl rfl)
  have hbreak := (((Acts.of_aside (c := c) hmag).trans (breakProbe_acts _)).trans (cutOffEngine_acts _)).act
    (.dropsWeb (cutOffEngine_writing _)) |>.aside (addCause_aside _ .paperBreak)
  have hchange : ∀ t : State, Aside t ({ t with transport.changeover := none } : State).clearRequest :=
    fun _ => .plain rfl rfl rfl rfl rfl rfl rfl
  have hclear : ∀ t : State, Aside t t.clearRequest.dueScan.dueAttempt :=
    fun _ => .plain rfl rfl rfl rfl rfl rfl rfl
  simp only [webBreak]
  split
  · exact hbreak.aside ((hchange _).trans (setLine_aside _ _))
  · exact hbreak.aside (hclear _)
  · exact hbreak

theorem presenceChange_acts (s : State) (m : MagSlot) (b : Bool) : Acts c s (s.presenceChange m b) := by
  simp only [presenceChange]
  split
  · exact .of_aside (insertion_aside s m)
  · split
    · split
      · exact webBreak_acts s m
      · exact removal_acts s m
    · exact .refl

theorem writing_of_frame? {s : State} {f : FrameContext} (h : s.frame? = some f) : s.writing = true := by
  simp only [frame?] at h
  split at h
  · next e => simp [writing, e]
  · cases h

theorem takePaperEnd_acts (s : State) (m : MagSlot) : Acts c s (s.takePaperEnd m) := by
  have hmag : Acts c s (s.modMag (fun g =>
      { g with remaining := .mm s.transport.endLead, endSeen := true, carry := 0 }) m) :=
    .of_aside (modMag_aside s _ _)
  simp only [takePaperEnd]
  split
  · next h =>
    split
    · exact hmag.act (.aborts (writing_of_frame? h))
    · exact hmag
  · exact hmag

theorem thread_acts (s : State) (m : MagSlot) : Acts c s (s.thread m) := by
  have hmag : Acts c s (({ s with transport.threaded := some m } : State).modMag (fun g =>
      { g with consumedTo := s.transport.position, remaining := g.remaining.take 40 }) m) :=
    .of_aside ((modMag_aside _ _ _).after (.plain rfl rfl rfl rfl rfl rfl rfl))
  simp only [thread]
  split
  · exact (hmag.trans (takePaperEnd_acts _ _)).aside (unthreadEmpty_aside _)
  · exact hmag.aside (unthreadEmpty_aside _)

/-! ### The line -/

theorem resetTransport_acts (s : State) : Acts c s s.resetTransport :=
  .single (.steers (.recovers rfl rfl (Nat.zero_le _)))

theorem resetControl_aside (s : State) : Aside s s.resetControl := .plain rfl rfl rfl rfl rfl rfl rfl

theorem resetLine_acts (s : State) : Acts c s s.resetLine := by
  have hweb := ((cutOffEngine_acts (c := c) s).act (.dropsWeb (cutOffEngine_writing s))).act .resetsActive
  have hcontrol := (hweb.trans (resetTransport_acts _)).aside (resetControl_aside _)
  have hdue : ∀ t : State, Aside t { t with due := Due.none } := fun _ => .plain rfl rfl rfl rfl rfl rfl rfl
  exact (hcontrol.aside (setLine_aside _ _)).aside (hdue _)

theorem startProbe_acts (s : State) : Acts c s s.startProbe := by
  have hrun : Acts c s { s with transport.probe := some ⟨s.ms, 0⟩, ctl.lastProbe := .running } :=
    (Acts.single (.steers (.probes (p := ⟨s.ms, 0⟩)))).aside (.plain rfl rfl rfl rfl rfl rfl rfl)
  exact hrun.aside (syncMotor_aside _)

theorem askCalibration_acts (s : State) (k : CalKind) (pre : Bool) : Acts c s (s.askCalibration k pre) := by
  have hmerge : Acts c s (s.mergePending k) := .of_aside (.plain rfl rfl rfl rfl rfl rfl rfl)
  simp only [askCalibration]
  split
  · next h => exact hmerge.act (.aborts (by simpa using (Bool.and_eq_true _ _ ▸ h).2))
  · exact hmerge

end State

end Sys2Proof.Machine
end


section
/-! Operands within the bounds of the tables they are written to. -/

set_option Elab.async false

namespace Sys2Proof.Machine

/-! ### Prices -/

theorem widthOf_mem {n w : Nat} (h : widthOf n = some w) :
    [89, 102, 127, 152, 203, 210, 254, 305].contains w = true := by
  simp only [widthOf] at h
  split at h <;> cases h <;> decide

theorem productOf_sound {a : PriceStageArgs} {p : Product} (h : productOf a = some p)
    (ht : tiersValid p.base p.tiers = true) : p.sound = true := by
  simp only [productOf] at h
  split at h
  · next hw _ =>
    split at h
    · next hr =>
      obtain ⟨_, halong, hbase, hcount⟩ := hr
      cases h
      have hlen : (tiersGiven a).length ≤ 3 := by simp [tiersGiven]
      simp only [Product.sound, widthOf_mem hw, halong, hbase, hlen, ht, decide_true, Bool.and_self]
    · cases h
  · cases h

theorem globalsOf_sound {a : GlobalsArgs} {g : Globals} (h : globalsOf a = some g) : g.sound = true := by
  simp only [globalsOf] at h
  split at h
  · next hr => cases h; simpa [Globals.sound, and_assoc] using hr
  · cases h

theorem all_modAt {α : Type} (p : α → Bool) (f : α → α) (hf : ∀ x, p x = true → p (f x) = true) :
    ∀ (l : List α) (k : Nat), l.all p = true → (modAt f l k).all p = true
  | [], _, _ => rfl
  | x :: xs, 0, h => by simp_all [modAt]
  | x :: xs, k + 1, h => by
    simp only [List.all_cons, Bool.and_eq_true] at h
    simp only [modAt, List.all_cons, h.1, all_modAt p f hf xs k h.2, Bool.and_self]

theorem stagedProduct_sound {t : PriceTable} {p : Product} {k : Nat} (ht : t.sound = true)
    (hp : p.sound = true) :
    ({ t with products := modAt (fun _ => p) t.products k } : PriceTable).sound = true := by
  simp only [PriceTable.sound, Bool.and_eq_true, decide_eq_true_eq] at ht ⊢
  obtain ⟨⟨hlen, hall⟩, hg⟩ := ht
  exact ⟨⟨(length_modAt _ _ _).trans hlen, all_modAt _ _ (fun _ _ => hp) _ _ hall⟩, hg⟩

theorem stagedGlobals_sound {t : PriceTable} {g : Globals} (ht : t.sound = true) (hg : g.sound = true) :
    ({ t with globals := g } : PriceTable).sound = true := by
  simp only [PriceTable.sound, Bool.and_eq_true] at ht ⊢
  exact ⟨ht.1, hg⟩

/-! ### Exposure tables -/

theorem rgbAll_rgbMod {α : Type} {p : α → Bool} {f : α → α} {v : Rgb α} {ch : Channel}
    (hf : ∀ x, p (f x) = true) (hv : rgbAll p v = true) : rgbAll p (rgbMod f v ch) = true := by
  simp only [rgbAll, Bool.and_eq_true] at hv ⊢
  cases ch <;> simp [rgbMod, hv, hf]

theorem surfaceAll_surfaceMod {α : Type} {p : α → Bool} {f : Rgb α → Rgb α} {v : PerSurface (Rgb α)}
    {k : Surface} (hf : ∀ x, rgbAll p x = true → rgbAll p (f x) = true) (hv : surfaceAll p v = true) :
    surfaceAll p (surfaceMod f v k) = true := by
  simp only [surfaceAll, Bool.and_eq_true] at hv ⊢
  obtain ⟨⟨hg, hm⟩, hl⟩ := hv
  cases k <;> simp [surfaceMod, hg, hm, hl, hf]

theorem signedWithin_bounds {x : Byte} {b : Nat} {v : Int} (h : signedWithin x b = some v) :
    -(b : Int) ≤ v ∧ v ≤ b := by
  simp only [signedWithin] at h
  split at h
  · cases h
  · split at h
    · cases h
    · cases h; omega

theorem corrOf_sound {a : CorrArg} {c : Corr} (h : corrOf a = some c) : c.sound = true := by
  simp only [corrOf] at h
  split at h
  · next b hb =>
    obtain ⟨hlo, hhi⟩ := signedWithin_bounds hb
    split at h
    · next ho =>
      cases h
      simp only [Nat.cast_ofNat] at hlo hhi
      simp only [Corr.sound, hlo, hhi, ho, decide_true, Bool.and_self]
    · cases h
  · cases h

theorem rgbCorrOf_sound {v : Rgb CorrArg} {c : Rgb Corr} (h : rgbCorrOf v = some c) :
    rgbAll Corr.sound c = true := by
  simp only [rgbCorrOf] at h
  split at h
  · next hr hg hb =>
    cases h
    simp only [rgbAll, corrOf_sound hr, corrOf_sound hg, corrOf_sound hb, Bool.and_self]
  · cases h

/-! ### Element trims -/

theorem newTrim_within (ref m : Nat) : within (newTrim ref m) 512 2047 = true := by
  unfold newTrim
  split
  · decide
  · simp only [within, Bool.and_eq_true, decide_eq_true_eq]
    omega

theorem mapFrom_length {α β : Type} (f : Nat → α → β) : ∀ (i : Nat) (l : List α),
    (mapFrom f i l).length = l.length
  | _, [] => rfl
  | i, x :: xs => by simp [mapFrom, mapFrom_length f (i + 1) xs]

theorem mapFrom_all {α : Type} {p : α → Bool} {f : Nat → α → α} (hf : ∀ i x, p x = true → p (f i x) = true) :
    ∀ (i : Nat) (l : List α), l.all p = true → (mapFrom f i l).all p = true
  | _, [], _ => rfl
  | i, x :: xs, h => by
    simp only [List.all_cons, Bool.and_eq_true] at h
    simp only [mapFrom, List.all_cons, hf i x h.1, mapFrom_all hf (i + 1) xs h.2, Bool.and_self]

theorem commitTrims_sound {r : CalRun} {ptr : Nat} {m : Readings} {ch : Channel} {ts : List Nat}
    (h : trimSound ts = true) : trimSound (commitTrims r ptr m ch ts) = true := by
  simp only [trimSound, Bool.and_eq_true, decide_eq_true_eq] at h ⊢
  refine ⟨(mapFrom_length _ _ _).trans h.1, mapFrom_all (fun i x hx => ?_) _ _ h.2⟩
  split
  · exact newTrim_within _ _
  · exact hx

theorem CalUnit.commit_sound {c : CalUnit} {r : CalRun} {m : Readings} (h : rgbAll trimSound c.trim = true) :
    rgbAll trimSound (c.commit r m).trim = true := by
  simp only [rgbAll, Bool.and_eq_true] at h
  obtain ⟨⟨hr, hg⟩, hb⟩ := h
  simp only [CalUnit.commit, rgbAll, commitTrims_sound hr, commitTrims_sound hg, commitTrims_sound hb,
    Bool.and_self]

end Sys2Proof.Machine
end


section
/-! No act of a command touches a port's holder, its enables or what its data out presented: those are the
replies' own. -/

set_option Elab.async false

namespace Sys2Proof.Machine

namespace State

theorem setOrderState_posts (s : State) (i : Nat) (st : OrderState) : (s.setOrderState i st).posts = s.posts :=
  posts_of_lasting (setOrderState_lasting s i st)

theorem leaveHeld_posts (s : State) (i : Nat) : (s.leaveHeld i).posts = s.posts :=
  posts_of_lasting (leaveHeld_lasting s i)

theorem freeOrder_posts (s : State) (i : Nat) : (s.freeOrder i).posts = s.posts :=
  setOrderState_posts s i .free

theorem addHold_posts (s : State) (i : Nat) (r : Hold) : (s.addHold i r).posts = s.posts := by
  simp only [addHold]
  split
  · rfl
  · split
    · exact setOrderState_posts _ i .held
    · rfl

theorem afterMove_posts (s : State) (i : Nat) : (s.afterMove i).posts = s.posts := by
  simp only [afterMove]
  split
  · split
    · exact setOrderState_posts s i _
    · rfl
  · split
    · exact freeOrder_posts s i
    · rfl
  · rfl

theorem discard_posts (s : State) (i k : Nat) : (s.discard i k).posts = s.posts := afterMove_posts _ i

theorem spoil_posts (s : State) (x : OrderItem) : (s.spoil x).posts = s.posts := by
  simp only [spoil, spoilLive]
  split
  · rfl
  · split
    · exact discard_posts s _ _
    · split
      · exact addHold_posts _ _ _
      · split
        · exact setOrderState_posts _ _ _
        · rfl

theorem spoil?_posts (s : State) (x : Option OrderItem) : (s.spoil? x).posts = s.posts := by
  cases x with
  | none => rfl
  | some x => exact spoil_posts s x

theorem foldl_spoil_posts (l : List OrderItem) : ∀ s : State, (l.foldl spoil s).posts = s.posts := by
  induction l with
  | nil => exact fun _ => rfl
  | cons x l ih => exact fun s => (ih _).trans (spoil_posts s x)

theorem freeBinList_posts (s : State) (bs : List Nat) : (s.freeBinList bs).posts = s.posts := by
  simp only [freeBinList]
  split <;> rfl

theorem giveBinList_posts (s : State) (bs : List Nat) : (s.giveBinList bs).posts = s.posts := by
  simp only [giveBinList]
  split <;> rfl

theorem cancel_posts (s : State) (i : Nat) : (s.cancel i).posts = s.posts := by
  simp only [cancel]
  split
  · exact (freeOrder_posts _ i).trans (giveBinList_posts s _)
  · exact (setOrderState_posts _ i _).trans (giveBinList_posts s _)

theorem releasePaper1_posts (s : State) (i : Nat) : (s.releasePaper1 i).posts = s.posts :=
  posts_of_lasting (releasePaper1_lasting s i)

theorem afterSkip_posts (s : State) (i : Nat) : (s.afterSkip i).posts = s.posts := by
  simp only [afterSkip]
  split
  · rfl
  · split
    · exact setOrderState_posts s i _
    · exact setOrderState_posts s i _
    · rfl

theorem resetActive_posts (s : State) : s.resetActive.posts = s.posts := by
  simp only [resetActive]
  split
  · rfl
  · exact setOrderState_posts s _ _

theorem deliver_posts (s : State) (i k b : Nat) (inspect : Bool) : (s.deliver i k b inspect).posts = s.posts := by
  simp only [deliver]
  split
  · exact afterMove_posts _ i
  · exact afterMove_posts _ i

theorem sortSheet_posts (s : State) (x : Sheet) : (s.sortSheet x).posts = s.posts := by
  have hreject := (rejectSheet_aside s).posts
  simp only [sortSheet, sortPrint]
  split
  · split
    · exact hreject
    · split
      · exact (discard_posts _ _ _).trans hreject
      · split
        · exact deliver_posts s _ _ _ _
        · exact (discard_posts _ _ _).trans hreject
  · split
    · exact hreject
    · exact hreject

theorem loseHead_posts (s : State) : s.loseHead.posts = s.posts := by
  simp only [loseHead]
  split
  · rfl
  · exact spoil?_posts _ _

theorem abortFrame_posts (s : State) : s.abortFrame.posts = s.posts := by
  simp only [abortFrame]
  split
  · rfl
  · exact spoil?_posts _ _

theorem dropWeb_posts (s : State) : s.dropWeb.posts = s.posts := by
  simp only [dropWeb]
  split
  · exact foldl_spoil_posts _ _
  · exact foldl_spoil_posts _ _

end State

theorem State.storeByte_images (s : State) (pages : List Nat) (k : Nat) (b : Byte) :
    ∃ m, s.storeByte pages k b = { s with images.dram := m } := by
  simp only [State.storeByte]
  split
  · exact ⟨_, rfl⟩
  · exact ⟨s.images.dram, rfl⟩

theorem State.takeWord_images (s : State) (l : Load) (x : ImageSlot) (z : ImageSize) (w : Half) :
    ∃ m ld, s.takeWord l x z w = { s with images.dram := m, images.load := ld } := by
  obtain ⟨m, hm⟩ := s.storeByte_images x.pages (2 * l.taken) (w.extractLsb' 0 8)
  simp only [State.takeWord, hm]
  split
  · obtain ⟨m', hm'⟩ := State.storeByte_images { s with images.dram := m } x.pages (2 * l.taken + 1)
      (w.extractLsb' 8 8)
    exact ⟨m', _, by rw [hm']⟩
  · exact ⟨m, _, rfl⟩

/-- An act that writes the stored data leaves orders, prints and the transport. -/
theorem Storing.leaves {c : Instr} {s t : State} (h : Storing c s t) :
    t.book = s.book ∧ t.sorter = s.sorter ∧ t.cutter = s.cutter ∧ t.monitor = s.monitor ∧
      t.engine.work = s.engine.work ∧ t.transport = s.transport := by
  cases h with
  | tables work => exact ⟨rfl, rfl, rfl, rfl, work, rfl⟩
  | @takesWord _ _ l x z =>
    obtain ⟨m, ld, e⟩ := s.takeWord_images l x z ‹_›
    rw [e]
    exact ⟨rfl, rfl, rfl, rfl, rfl, rfl⟩
  | loads | freesSlot | prices | trims => exact ⟨rfl, rfl, rfl, rfl, rfl, rfl⟩

/-- An act on the transport leaves all other blocks. -/
theorem Steering.leaves {s t : State} (h : Steering s t) :
    ∃ tr us, t = { s with transport := tr, now := us } := by
  cases h with
  | reckons force => exact ⟨_, _, by simp only [State.elapse, force, if_true]; rfl⟩
  | counts | arises | recovers | probes | probeEnds => exact ⟨_, _, rfl⟩

theorem Storing.keeps_posts {c : Instr} {s t : State} (h : Storing c s t) : t.posts = s.posts := by
  cases h with
  | @takesWord _ _ l x z =>
    obtain ⟨m, ld, e⟩ := s.takeWord_images l x z ‹_›
    rw [e]
    rfl
  | loads | freesSlot | prices | tables | trims => rfl

theorem Steering.keeps_posts {s t : State} (h : Steering s t) : t.posts = s.posts := by
  obtain ⟨tr, us, rfl⟩ := h.leaves
  rfl

open State in
theorem Act.keeps_posts {c : Instr} {s t : State} (h : Act c s t) : t.posts = s.posts := by
  cases h with
  | aside h => exact h.posts
  | stores h => exact h.keeps_posts
  | steers h => exact h.keeps_posts
  | opens | addsItem | dropsItem | dropsSlot | notes | gaps => rfl
  | commits => exact setOrderState_posts _ _ _
  | withdraws => exact (freeBinList_posts _ _).trans (setOrderState_posts _ _ _)
  | discards => exact freeOrder_posts _ _
  | collects => exact (freeOrder_posts _ _).trans (freeBinList_posts _ _)
  | cancels => exact cancel_posts _ _
  | holds => exact addHold_posts _ _ _
  | releases => exact leaveHeld_posts _ _
  | unpapers => exact releasePaper1_posts _ _
  | reprints => exact setOrderState_posts _ _ _
  | skips => exact afterSkip_posts _ _
  | empties => exact freeBinList_posts _ _
  | losesHead => exact loseHead_posts _
  | sorts => exact sortSheet_posts _ _
  | aborts => exact abortFrame_posts _
  | dropsWeb => exact dropWeb_posts _
  | resetsActive => exact resetActive_posts _
  | cuts => rw [fireCut_tr]; rfl

theorem Acts.posts {c : Instr} {s t : State} (h : Acts c s t) : t.posts = s.posts :=
  h.keeps (P := fun x => x.posts = s.posts) (fun _ _ a e => a.keeps_posts.trans e) rfl

theorem State.settle_posts (before s : State) : (State.settle before s).posts = s.posts :=
  posts_of_lasting (settle_lasting before s)

/-- A port less its flag copy is read off the posts. -/
theorem State.port_of_posts {s t : State} (h : t.posts = s.posts) (p : Port) :
    (t.port p).lasting = (s.port p).lasting := by
  cases p with
  | order => exact congrArg Ports.order h
  | till => exact congrArg Ports.till h
  | line => exact congrArg Ports.line h

end Sys2Proof.Machine
end


section
/-! What each command can do: a request that is carried out and an event are chains of acts that come to
rest; every other answer changes nothing but the ports. -/

set_option Elab.async false

namespace Sys2Proof.Machine

/-- Nothing was changed, or a chain of the command's acts came to rest. -/
def Rested (c : Instr) (s v : State) : Prop := v = s ∨ ∃ u, Acts c s u ∧ v = State.settle s u

/-- Only the ports differ, and no level flag whose condition holds is lost from a full copy. -/
structure PortsOnly (v t : State) : Prop where
  same : t = { v with ports := t.ports }
  flags : ∀ p, v.conditionWord &&& ~~~(v.port p).flags = 0 → v.conditionWord &&& ~~~(t.port p).flags = 0

/-- What a command may bring about. -/
def Reached (c : Instr) (s t : State) : Prop := ∃ v, Rested c s v ∧ PortsOnly v t

namespace PortsOnly

theorem refl (v : State) : PortsOnly v v := ⟨rfl, fun _ h => h⟩

theorem conditionWord {v t : State} (h : PortsOnly v t) : t.conditionWord = v.conditionWord := by
  rw [h.same]; rfl

theorem trans {v t u : State} (h : PortsOnly v t) (k : PortsOnly t u) : PortsOnly v u where
  same := by rw [k.same, h.same]
  flags p hv := by
    have := k.flags p
    rw [h.conditionWord] at this
    exact this (h.flags p hv)

/-- A port is changed in what is not its flag copy. -/
theorem modPort {v : State} {f : PortState → PortState} (p : Port) (hf : ∀ x, (f x).flags = x.flags) :
    PortsOnly v (v.modPort f p) where
  same := by cases p <;> rfl
  flags q hq := by
    have : ((v.modPort f p).port q).flags = (v.port q).flags := by
      cases p <;> cases q <;> simp [State.modPort, State.port, hf]
    rwa [this]

theorem place (v : State) (h : Hdr) (code : Nat) (st : Status) (ps : List Byte) :
    PortsOnly v (v.place h code st ps) := modPort _ fun _ => rfl

end PortsOnly

namespace Reached

variable {c : Instr} {s u t : State}

theorem same (s : State) : Reached c s s := ⟨s, .inl rfl, .refl s⟩

theorem settles (h : Acts c s u) : Reached c s (State.settle s u) := ⟨_, .inr ⟨u, h, rfl⟩, .refl _⟩

theorem ports (h : Reached c s u) (k : PortsOnly u t) : Reached c s t := by
  obtain ⟨v, hv, hu⟩ := h
  exact ⟨v, hv, hu.trans k⟩

end Reached

/-- The state an answer gives is one its command may bring about; what the ports hold and present stays. -/
structure Answer.Reached (c : Instr) (s : State) (a : Answer) : Prop where
  reached : Machine.Reached c s a.state
  held : ∀ p, (a.state.port p).holder = (s.port p).holder ∧ (a.state.port p).out = (s.port p).out

section
variable {c : Instr} {s u : State}

theorem reached_refuse (e : Status) : (refuse s e).Reached c s := ⟨.same s, fun _ => ⟨rfl, rfl⟩⟩

theorem reached_failing (e : Status) (ps : List Byte) : (Answer.mk s e ps).Reached c s :=
  ⟨.same s, fun _ => ⟨rfl, rfl⟩⟩

theorem reached_readOut (ps : List Byte) : (readOut s ps).Reached c s := ⟨.same s, fun _ => ⟨rfl, rfl⟩⟩

/-- Acts and coming to rest leave what the ports hold and present. -/
theorem held_of_settles (h : Acts c s u) (p : Port) : ((State.settle s u).port p).holder = (s.port p).holder ∧
    ((State.settle s u).port p).out = (s.port p).out := by
  have hport := State.port_of_posts ((State.settle_posts s u).trans h.posts) p
  exact ⟨congrArg (·.holder) hport, congrArg (·.out) hport⟩

theorem reached_done (ps : List Byte) (h : Acts c s u) : (done s u ps).Reached c s :=
  ⟨.settles h, held_of_settles h⟩

theorem reached_accepted (h : Acts c s u) : (accepted s u).Reached c s := ⟨.settles h, held_of_settles h⟩

/-- A request carried out by an aside. -/
theorem reached_aside (ps : List Byte) (h : Aside s u) : (done s u ps).Reached c s :=
  reached_done ps (.of_aside h)

theorem reached_serve {h : Hdr} {code : Nat} {roles : List Port} {a : Answer} {t : State}
    (ha : a.Reached c s) (e : serve s h code roles a = .next t) : Reached c s t := by
  simp only [serve, Host.Outcome.next.injEq] at e
  subst e
  split
  · exact ha.reached.ports (.place _ _ _ _ _)
  · exact (Reached.same s).ports (.place _ _ _ _ _)

theorem reached_event {t : State} (h : Acts c s u) (e : event s u = .next t) : Reached c s t := by
  simp only [event, Host.Outcome.next.injEq] at e
  exact e ▸ .settles h

end

namespace State

variable {c : Instr}

/-! ### The order port -/

theorem orderOpen_reached (s : State) (a : OrderOpenArgs) : (s.orderOpen a).Reached c s := by
  simp only [orderOpen]
  split
  · split
    · exact reached_refuse _
    · next hr =>
      split
      · exact reached_refuse _
      · next hf =>
        split
        · exact reached_refuse _
        · next i hi =>
          have hn : a.number.toNat ≠ 0 := fun h => hr (.inl h)
          exact reached_done _ ((Acts.single (.opens hi hn (by simpa using hf))).aside
            (.plain rfl rfl rfl rfl rfl rfl rfl))
  · exact reached_refuse _

theorem addRef_stored (s : State) (k : Nat) :
    ({ s with images := s.images.addRef k } : State).stored = s.stored := by
  simp only [stored, ImageStore.addRef]
  rw [map_pages_modAt]
  exact fun _ => rfl

theorem dropRef_stored (s : State) (k : Nat) :
    ({ s with images := s.images.dropRef k } : State).stored = s.stored := by
  simp only [stored, ImageStore.dropRef]
  rw [map_pages_modAt]
  exact fun _ => rfl

theorem itemOf_new {a : ItemAddArgs} {x : Item} (h : itemOf a = some x) :
    x.n = Counts.new a.qty.toNat := by
  simp only [itemOf] at h
  split at h
  · split at h
    · cases h; rfl
    · cases h
  · cases h

theorem opened_of_not_bne {o : Order} (h : ¬(o.state != .opened) = true) : o.state = .opened := by
  simpa using h

theorem itemAdd_reached (s : State) (a : ItemAddArgs) : (s.itemAdd a).Reached c s := by
  simp only [itemAdd]
  split
  · exact reached_refuse _
  · split
    · exact reached_refuse _
    · next ho =>
      split
      · exact reached_refuse _
      · next hx =>
        split
        · exact reached_refuse _
        · split
          · exact reached_refuse _
          · split
            · exact reached_refuse _
            · refine reached_done _ ((Acts.single (.addsItem (opened_of_not_bne ho) (itemOf_new hx))).aside ?_)
              exact .plain (addRef_stored _ _) rfl rfl rfl rfl rfl rfl

theorem itemRemove_reached (s : State) (number : Half) (item : Byte) :
    (s.itemRemove number item).Reached c s := by
  simp only [itemRemove]
  split
  · exact reached_refuse _
  · split
    · exact reached_refuse _
    · next ho =>
      split
      · exact reached_refuse _
      · split
        · exact reached_refuse _
        · exact reached_done _ ((Acts.single (.dropsItem (opened_of_not_bne ho))).aside
            (.plain (dropRef_stored _ _) rfl rfl rfl rfl rfl rfl))

theorem imageLoad_reached (s : State) (slot width height : Half) :
    (s.imageLoad slot width height).Reached c s := by
  simp only [imageLoad]
  split
  · exact reached_refuse _
  · split
    · exact reached_refuse _
    · split
      · exact reached_refuse _
      · split
        · exact reached_refuse _
        · next hroom => exact reached_accepted (.single (.stores (.loads (not_lt.1 hroom))))

theorem imageRelease_reached (s : State) (slot : Half) : (s.imageRelease slot).Reached c s := by
  simp only [imageRelease]
  split
  · exact reached_refuse _
  · split
    · exact reached_refuse _
    · split
      · exact reached_done _ .refl
      · exact reached_done _ (.single (.stores .freesSlot))
      · exact reached_done _ (loadFault_acts s _)

theorem commit_reached (s : State) (i : Nat) (pre : Bool) (ho : (s.orderAt i).state = .opened)
    (hq : ordered (s.orderAt i) ≤ 400) : (s.commit i pre).Reached c s := by
  have h := Acts.single (c := c) (.commits (pre := pre) ho hq)
  simp only [commit]
  refine reached_done _ ?_
  split
  · exact h.aside (wake_aside _)
  · exact h

theorem orderCommit_reached (s : State) (number : Half) (prepaid : Byte) :
    (s.orderCommit number prepaid).Reached c s := by
  simp only [orderCommit]
  split
  · exact reached_refuse _
  split
  · exact reached_refuse _
  split
  · exact reached_refuse _
  next ho =>
  split
  · exact reached_refuse _
  split
  · exact reached_failing _ _
  split
  · exact reached_failing _ _
  split
  · exact reached_failing _ _
  split
  · exact reached_failing _ _
  split
  · exact reached_refuse _
  next hq =>
  split
  · exact reached_refuse _
  · simp only [Bool.or_eq_true, not_or, bne_iff_ne, ne_eq, not_not] at ho
    exact commit_reached s _ _ ho.1 (not_lt.1 hq)

theorem orderWithdraw_reached (s : State) (number : Half) : (s.orderWithdraw number).Reached c s := by
  simp only [orderWithdraw]
  split
  · exact reached_refuse _
  · split
    · exact reached_refuse _
    · next h =>
      simp only [Bool.or_eq_true, not_or, bne_iff_ne, ne_eq, not_not, Bool.not_eq_true] at h
      exact reached_done _ (.single (.withdraws h.1.1 h.1.2))

theorem orderDiscard_reached (s : State) (number : Half) : (s.orderDiscard number).Reached c s := by
  simp only [orderDiscard]
  split
  · exact reached_refuse _
  · split
    · exact reached_refuse _
    · next h => exact reached_done _ (.single (.discards (opened_of_not_bne h)))

/-! ### The till port -/

theorem priceStage_reached (s : State) (a : PriceStageArgs) (hc : pricing c = true) :
    (s.priceStage a).Reached c s := by
  simp only [priceStage]
  split
  · exact reached_refuse _
  · next p hp =>
    split
    · exact reached_refuse _
    · next ht =>
      refine reached_done _ (.single (.stores (.prices (p := { s.prices with
        staged.products := modAt (fun _ => p) s.prices.staged.products a.product.toNat }) hc ?_)))
      exact fun ⟨ha, hs, hg⟩ => ⟨ha, stagedProduct_sound hs (productOf_sound hp (by simpa using ht)), hg⟩

theorem priceStageGlobals_reached (s : State) (a : GlobalsArgs) (hc : pricing c = true) :
    (s.priceStageGlobals a).Reached c s := by
  simp only [priceStageGlobals]
  split
  · exact reached_refuse _
  · next g hg =>
    refine reached_done _ (.single (.stores (.prices (p := { s.prices with staged.globals := g }) hc ?_)))
    exact fun ⟨ha, hs, hn⟩ => ⟨ha, stagedGlobals_sound hs (globalsOf_sound hg), hn⟩

theorem priceActivate_reached (s : State) (hc : pricing c = true) : s.priceActivate.Reached c s := by
  refine reached_done _ ((Acts.single (.stores (.prices (p := { s.prices with
    active := s.prices.staged, generation := (s.prices.generation + 1) % 65536 }) hc ?_))).aside
    (raise_aside _ _))
  exact fun ⟨_, hs, _⟩ => ⟨hs, hs, Nat.mod_lt _ (by decide)⟩

theorem orderSettle_reached (s : State) (number : Half) : (s.orderSettle number).Reached c s := by
  simp only [orderSettle]
  split
  · exact reached_refuse _
  · split
    · exact reached_refuse _
    · exact reached_done _ (.single (.notes fun _ => rfl))

theorem orderPay_reached (s : State) (number : Half) (amount : Wide) :
    (s.orderPay number amount).Reached c s := by
  simp only [orderPay]
  split
  · exact reached_refuse _
  split
  · exact reached_refuse _
  split
  · exact reached_refuse _
  split
  · exact reached_refuse _
  split
  · exact reached_refuse _
  · exact reached_done _ (.single (.notes fun _ => rfl))

theorem orderCollect_reached (s : State) (number : Half) : (s.orderCollect number).Reached c s := by
  simp only [orderCollect]
  split
  · exact reached_refuse _
  split
  · exact reached_refuse _
  split
  · exact reached_refuse _
  next h =>
  split
  · exact reached_refuse _
  · exact reached_done _ (.single (.collects (by simpa using h)))

theorem orderCancel_reached (s : State) (number : Half) : (s.orderCancel number).Reached c s := by
  simp only [orderCancel]
  split
  · exact reached_refuse _
  split
  · next h => exact reached_done _ (.single (.discards (by simpa using h)))
  split
  · exact reached_refuse _
  · next h => exact reached_done _ (.single (.cancels (by simpa using h)))

theorem orderHold_reached (s : State) (p : Port) (number : Half) : (s.orderHold p number).Reached c s := by
  simp only [orderHold]
  split
  · exact reached_refuse _
  split
  · exact reached_refuse _
  · exact reached_done _ (.single .holds)

theorem orderRelease_reached (s : State) (p : Port) (number : Half) :
    (s.orderRelease p number).Reached c s := by
  simp only [orderRelease]
  split
  · exact reached_refuse _
  split
  · exact reached_refuse _
  · exact reached_done _ (.single .releases)

theorem orderReprint_reached (s : State) (number : Half) (item n : Byte) :
    (s.orderReprint number item n).Reached c s := by
  simp only [orderReprint]
  split
  · exact reached_refuse _
  split
  · exact reached_refuse _
  next hr =>
  split
  · exact reached_refuse _
  next hk =>
  split
  · exact reached_refuse _
  next hx =>
  split
  · exact reached_refuse _
  next hq =>
  have h := Acts.single (c := c) (.reprints (by simpa using hr) (fun h0 => hk (.inl h0)) hx
    (not_lt.1 fun h => hq (.inr h)))
  refine reached_done _ ?_
  split
  · exact h.aside (wake_aside _)
  · exact h

/-! ### The line port: the line, orders, bins and the processor -/

theorem lineRun_reached (s : State) : s.lineRun.Reached c s := by
  simp only [lineRun]
  split
  · exact reached_refuse _
  · exact reached_aside _ (.plain rfl rfl rfl rfl rfl rfl rfl)

theorem linePause_reached (s : State) : s.linePause.Reached c s := by
  simp only [linePause]
  split <;> exact reached_aside _ (.plain rfl rfl rfl rfl rfl rfl rfl)

theorem lineReset_reached (s : State) : s.lineReset.Reached c s := by
  simp only [lineReset]
  split
  · exact reached_refuse _
  · exact reached_done _ (resetLine_acts s)

theorem lineWake_reached (s : State) : s.lineWake.Reached c s := by
  simp only [lineWake]
  split
  · exact reached_aside _ (wake_aside s)
  · exact reached_aside _ (.plain rfl rfl rfl rfl rfl rfl rfl)

theorem faultClear_reached (s : State) (causes : Byte) : (s.faultClear causes).Reached c s := by
  simp only [faultClear]
  split
  · exact reached_refuse _
  · have h : ∀ f, Acts c s (s.setFaults f) := fun f => .of_aside (setFaults_aside s f)
    have hdone : ∀ (b : Bool) (f : FaultSet), Acts c s (if b then (s.setFaults f).startProbe
        else s.setFaults f) := fun b f => by
      split
      · exact (h _).trans (startProbe_acts _)
      · exact h _
    exact ⟨.settles (hdone _ _), held_of_settles (hdone _ _)⟩

theorem routeSet_reached (s : State) (w1 w2 : WindowArg) : (s.routeSet w1 w2).Reached c s := by
  simp only [routeSet]
  split
  · exact reached_aside _ (.plain rfl rfl rfl rfl rfl rfl rfl)
  · exact reached_refuse _

theorem binEmptied_reached (s : State) (bin : Byte) : (s.binEmptied bin).Reached c s := by
  simp only [binEmptied]
  split
  · exact reached_refuse _
  split
  · exact reached_aside _ (.plain rfl rfl rfl rfl rfl rfl rfl)
  split
  · next h => exact reached_done _ (.single (.empties h))
  · exact reached_done _ .refl
  · exact reached_refuse _

theorem itemSkip_reached (s : State) (number : Half) (item : Byte) : (s.itemSkip number item).Reached c s := by
  simp only [itemSkip]
  split
  · exact reached_refuse _
  split
  · exact reached_refuse _
  next h =>
  split
  · exact reached_refuse _
  · exact reached_done _ (.single (.skips (by simpa using h)))

theorem shiftDue_aside (s : State) (n : Nat) : Aside s (s.shiftDue n) :=
  .plain rfl rfl rfl rfl (by simp [shiftDue, Function.comp_def]) rfl rfl

theorem jamClear_reached (s : State) (count : Half) : (s.jamClear count).Reached c s := by
  simp only [jamClear]
  split
  · exact reached_refuse _
  split
  · exact reached_refuse _
  split
  · exact reached_refuse _
  · have hlost : ∀ n d, Acts c s { (s.loseHeads n).shiftDue d with monitor.stop := none } := fun n d =>
      ((loseHeads_acts n s).aside (shiftDue_aside _ d)).aside (.plain rfl rfl rfl rfl rfl rfl rfl)
    exact reached_done _ ((((hlost _ _).aside (setFaults_aside _ _)).aside (startPump_aside _)).trans
      (checkWatchdog_acts _))

theorem processorConfig_reached (s : State) (a : ProcessorArgs) : (s.processorConfig a).Reached c s := by
  simp only [processorConfig]
  split
  · exact reached_refuse _
  · refine reached_done _ (((Acts.of_aside ?_).aside (startPump_aside _)).trans (checkWatchdog_acts _))
    exact .plain rfl rfl rfl rfl rfl rfl rfl

theorem standbyConfig_reached (s : State) (a : StandbyArgs) : (s.standbyConfig a).Reached c s := by
  simp only [standbyConfig]
  split
  · split
    · exact reached_refuse _
    · exact reached_aside _ ((checkStandby_aside _).after (.plain rfl rfl rfl rfl rfl rfl rfl))
  · exact reached_refuse _

/-! ### The line port: head, engine, transport and cutter -/

theorem headCalibrate_reached (s : State) (kind preempt : Byte) : (s.headCalibrate kind preempt).Reached c s := by
  simp only [headCalibrate]
  split
  · next k pre _ _ =>
    have h : (accepted s (s.askCalibration k pre)).Reached c s := reached_accepted (askCalibration_acts s k pre)
    split
    · exact h
    · split
      · exact reached_refuse _
      · exact reached_refuse _
      · exact reached_refuse _
      · split
        · exact reached_refuse _
        · exact h
      · exact h
  · exact reached_refuse _

theorem calRefSet_reached (s : State) (ref : Rgb Half) (every : Half) : (s.calRefSet ref every).Reached c s := by
  simp only [calRefSet]
  split
  · exact reached_refuse _
  · exact reached_aside _ (.plain rfl rfl rfl rfl rfl rfl rfl)

theorem patternSet_reached (s : State) (mode : Byte) : (s.patternSet mode).Reached c s := by
  simp only [patternSet]
  split
  · exact reached_refuse _
  split
  · exact reached_refuse _
  split
  · exact reached_done _ .refl
  · refine reached_aside _ ?_
    split <;> split <;> exact .plain rfl rfl rfl rfl rfl rfl rfl

theorem testPrint_reached (s : State) (slot count : Byte) : (s.testPrint slot count).Reached c s := by
  simp only [testPrint]
  split
  · exact reached_refuse _
  split
  · exact reached_refuse _
  split
  · exact reached_refuse _
  split
  · exact reached_refuse _
  · exact reached_aside _ (.plain rfl rfl rfl rfl rfl rfl rfl)

theorem copyNow_aside (s : State) : Aside s s.copyNow := by
  simp only [copyNow]
  split
  · exact .refl s
  · exact copyCorrections_aside s

theorem correctionSet_reached (s : State) (surface : Byte) (corr : Rgb CorrArg) :
    (s.correctionSet surface corr).Reached c s := by
  simp only [correctionSet]
  split
  · next f k _ hk =>
    refine reached_done _ ((Acts.single (.stores (.tables (e := { s.engine with
      staged := surfaceMod (fun _ => k) s.engine.staged f, waiting := true }) rfl ?_))).aside (copyNow_aside _))
    exact fun ⟨hc, hd, hs⟩ => ⟨hc, hd, surfaceAll_surfaceMod (fun _ _ => rgbCorrOf_sound hk) hs⟩
  · exact reached_refuse _

theorem correctionHold_reached (s : State) (mode : Byte) : (s.correctionHold mode).Reached c s := by
  simp only [correctionHold]
  split
  · exact reached_refuse _
  · exact reached_aside _ ((copyNow_aside _).after (.plain rfl rfl rfl rfl rfl rfl rfl))

theorem curveLoad_reached (s : State) (surface channel : Byte) (levels : List Byte) :
    (s.curveLoad surface channel levels).Reached c s := by
  simp only [curveLoad]
  split
  · exact reached_refuse _
  next hl =>
  split
  · next f k _ _ =>
    split
    · exact reached_refuse _
    next ha =>
    split
    · exact reached_refuse _
    refine reached_done _ (.single (.stores (.tables (e := { s.engine with
      curves := surfaceMod (fun v => rgbMod (fun _ => levels.map BitVec.toNat) v k) s.engine.curves f })
      rfl ?_)))
    refine fun ⟨hc, hd, hs⟩ => ⟨surfaceAll_surfaceMod (fun _ => rgbAll_rgbMod ?_) hc, hd, hs⟩
    simp only [not_not] at hl
    simp only [Bool.not_eq_true, Bool.not_eq_false'] at ha
    intro _
    simp only [curveSound, hl, decide_true, ha, Bool.and_self]
  · exact reached_refuse _

theorem driveLoad_reached (s : State) (channel : Byte) (codes : List Half) :
    (s.driveLoad channel codes).Reached c s := by
  simp only [driveLoad]
  split
  · exact reached_refuse _
  next hl =>
  split
  · next k _ =>
    split
    · exact reached_refuse _
    next ha =>
    split
    · exact reached_refuse _
    split
    · exact reached_refuse _
    next hn =>
    refine reached_done _ (.single (.stores (.tables (e := { s.engine with
      drive := rgbMod (fun _ => codes.map BitVec.toNat) s.engine.drive k }) rfl ?_)))
    refine fun ⟨hc, hd, hs⟩ => ⟨hc, rgbAll_rgbMod ?_ hd, hs⟩
    simp only [not_not] at hl
    simp only [Bool.not_eq_true, Bool.not_eq_false'] at ha hn
    intro _
    simp only [driveSound, hl, decide_true, ha, hn, Bool.and_self]
  · exact reached_refuse _

theorem backprintConfig_reached (s : State) (enable : Byte) (start stop : Half) :
    (s.backprintConfig enable start stop).Reached c s := by
  simp only [backprintConfig]
  split
  · exact reached_refuse _
  split
  · exact reached_refuse _
  · exact reached_aside _ (.plain rfl rfl rfl rfl rfl rfl rfl)

theorem magazineConfig_reached (s : State) (a : MagConfigArgs) : (s.magazineConfig a).Reached c s := by
  simp only [magazineConfig]
  split
  · split
    · exact reached_refuse _
    · refine reached_done _ (((Acts.of_aside ?_).trans (presenceChange_acts _ _ _)).trans
        (presenceChange_acts _ _ _))
      exact .plain rfl rfl rfl rfl rfl rfl rfl
  · exact reached_refuse _

theorem magazinePresent_reached (s : State) (slot presence : Byte) :
    (s.magazinePresent slot presence).Reached c s := by
  simp only [magazinePresent]
  split
  · split
    · exact reached_refuse _
    · exact reached_done _ ((Acts.of_aside (modMag_aside s _ _)).trans (presenceChange_acts _ _ _))
  · exact reached_refuse _

theorem dueAttempt_aside (s : State) : Aside s s.dueAttempt := .plain rfl rfl rfl rfl rfl rfl rfl

theorem rollSet_reached (s : State) (slot : Byte) (length : Wide) : (s.rollSet slot length).Reached c s := by
  simp only [rollSet]
  split
  · split
    · exact reached_refuse _
    split
    · exact reached_refuse _
    · exact reached_done _ (((Acts.of_aside (modMag_aside s _ _)).trans (releasePaper_acts _)).aside
        (dueAttempt_aside _))
  · exact reached_refuse _

theorem pathConfig_reached (s : State) (counts : Half) (speed delay : Byte) :
    (s.pathConfig counts speed delay).Reached c s := by
  simp only [pathConfig]
  split
  · exact reached_refuse _
  split
  · exact reached_refuse _
  · exact reached_done _ ((checkFlush_acts _).after (.plain rfl rfl rfl rfl rfl rfl rfl))

theorem cutterConfig_reached (s : State) (a : CutterArgs) : (s.cutterConfig a).Reached c s := by
  simp only [cutterConfig]
  split
  · exact reached_refuse _
  split
  · exact reached_refuse _
  · exact reached_aside _ (.plain rfl rfl rfl rfl rfl rfl rfl)

/-! ### Every port -/

theorem orderStatus_reached (s : State) (number : Half) : (s.orderStatus number).Reached c s := by
  simp only [orderStatus]
  split
  · exact reached_refuse _
  · exact reached_readOut _

theorem orderList_reached (s : State) (state : Byte) : (s.orderList state).Reached c s := by
  simp only [orderList]
  split
  · exact reached_refuse _
  · exact reached_readOut _

theorem priceRead_reached (s : State) (copy entry : Byte) : (s.priceRead copy entry).Reached c s := by
  simp only [priceRead]
  split
  · exact reached_refuse _
  split
  · exact reached_readOut _
  split
  · exact reached_readOut _
  · exact reached_refuse _

theorem port_modPort (s : State) (f : PortState → PortState) (p q : Port) :
    (s.modPort f p).port q = if q = p then f (s.port q) else s.port q := by
  cases p <;> cases q <;> rfl

/-- Flags cleared under a mask come back where their condition holds. -/
theorem and_not_cleared {w : Nat} {x a m : BitVec w} (h : x &&& ~~~a = 0#w) :
    x &&& ~~~((a &&& ~~~m) ||| (x &&& m)) = 0#w := by
  ext k hk
  have hbit := congrArg (·.getLsbD k) h
  simp only [BitVec.getLsbD_and, BitVec.getLsbD_not, hk, decide_true, BitVec.getLsbD_zero] at hbit
  simp only [BitVec.getElem_and, BitVec.getElem_not, BitVec.getElem_or, BitVec.getElem_zero]
  simp only [BitVec.getLsbD_eq_getElem hk] at hbit
  revert hbit
  cases x[k] <;> cases a[k] <;> cases m[k] <;> simp

theorem flagsClear_reached (s : State) (p : Port) (mask : Half) : (s.flagsClear p mask).Reached c s := by
  simp only [flagsClear]
  split
  · exact reached_refuse _
  · refine ⟨(Reached.same s).ports ⟨by cases p <;> rfl, fun q hq => ?_⟩, fun q => ?_⟩
    · rw [port_modPort]
      split
      · next h => subst h; exact and_not_cleared hq
      · exact hq
    · rw [port_modPort]
      split <;> exact ⟨rfl, rfl⟩

theorem flagsEnable_reached (s : State) (p : Port) (word : Half) : (s.flagsEnable p word).Reached c s := by
  simp only [flagsEnable]
  split
  · exact reached_refuse _
  · refine ⟨(Reached.same s).ports (PortsOnly.modPort (f := fun x => { x with enables := word }) p fun _ => rfl),
      fun q => ?_⟩
    rw [port_modPort]
    split <;> exact ⟨rfl, rfl⟩

theorem transfer_flags (p : PortState) (n : Nat) : (PortState.transfer p n).flags = p.flags := by
  simp only [PortState.transfer]; split <;> rfl

theorem replyRead_ports (s : State) (p : Port) (n : Nat) : PortsOnly s (s.replyRead p n) :=
  .modPort _ fun x => transfer_flags x n

theorem malformed_ports (s : State) (p : Port) (bytes : List Byte) (cut : Bool) :
    PortsOnly s (s.malformed p bytes cut) := by
  simp only [malformed]
  split
  · exact .refl s
  · split
    · exact replyRead_ports s p _
    · split
      · refine .modPort _ ?_
        exact fun _ => rfl
      · exact .refl s

/-! ### The image link -/

theorem wordStrobe_acts (s : State) (w : Half) (lv : Bool) (hc : c = .imageWordStrobe w lv) :
    Acts c s (s.wordStrobe w lv) := by
  simp only [wordStrobe]
  split
  · exact .refl
  split
  · split
    · exact .refl
    split
    · exact loadFault_acts s _
    · exact .single (.stores (.takesWord hc))
  · exact .refl

theorem frameRise_acts (s : State) : Acts c s s.frameRise := by
  simp only [frameRise]
  split
  · exact .refl
  · exact .of_aside (.plain rfl rfl rfl rfl rfl rfl rfl)

theorem loadDone_aside (s : State) (k : Nat) : Aside s (s.loadDone k) :=
  .plain (loadDone_stored s k) rfl rfl rfl rfl rfl rfl

theorem frameFall_acts (s : State) : Acts c s s.frameFall := by
  have h : Acts c s { s with images.frameValid := false } :=
    .of_aside (.plain rfl rfl rfl rfl rfl rfl rfl)
  simp only [frameFall]
  split
  · exact h
  split
  · exact h
  split
  · exact h
  split
  · exact h
  split
  · exact h.aside (loadDone_aside _ _)
  · exact h.trans (loadFault_acts _ _)

/-! ### Paper events -/

/-- What follows the time of an event is taken on the state that the time has brought. -/
theorem after_passTo {F : State → State} (h : ∀ t, Acts c t (F t)) (s : State) (n : Nat) :
    Acts c s (F (s.passTo n)) := (passTo_acts s n).trans (h _)

theorem countedPosition_le (s : State) (b : Bool) :
    s.countedPosition b ≤ Config.positionMax ∨ s.countedPosition b ≤ s.transport.position := by
  simp only [countedPosition]
  split <;> omega

theorem probeCount_acts (s : State) (p : Probe) (b : Bool) : Acts c s (s.probeCount p b) := by
  have hmove : Acts c s (State.moveTo { s with transport.probe := some { p with counts := p.counts + 1 } }
      (s.countedPosition b)) :=
    (Acts.single (.steers .probes)).trans (moveTo_acts (.steers (.counts (countedPosition_le s b) (.inr rfl))))
  simp only [probeCount]
  split
  · exact hmove.trans (probePasses_acts _)
  · exact hmove

theorem countSeen_aside (s : State) (b : Bool) : Aside s (s.countSeen b) := .plain rfl rfl rfl rfl rfl rfl rfl

theorem transition_acts (s : State) (b : Bool) : Acts c s (s.transition b) := by
  have hseen : Acts c s (s.countSeen b) := .of_aside (countSeen_aside s b)
  simp only [transition]
  split
  · exact hseen.trans (probeCount_acts _ _ _)
  split
  · exact hseen
  · next h =>
    refine hseen.trans (moveTo_acts (.steers (.counts (countedPosition_le _ _) (.inl ?_))))
    simpa using h

theorem noCount_acts (s : State) : Acts c s s.noCount := by
  simp only [noCount]
  split
  · exact (passTo_acts s _).trans (encoderArises_acts _)
  · exact .refl

theorem reckon_acts (s : State) (us : Nat) : Acts c s (s.reckon us) := by
  simp only [reckon]
  split
  · exact pass_acts s us
  · exact .refl

theorem probeSuccess_acts (s : State) : Acts c s s.probeSuccess := by
  simp only [probeSuccess]
  split
  · split
    · exact probePasses_acts s
    · exact .refl
  · exact .refl

theorem probeFailure_acts (s : State) : Acts c s s.probeFailure := by
  simp only [probeFailure]
  split
  · exact (passTo_acts s _).trans (probeFails_acts _)
  · exact .refl

theorem detectInput_acts (s : State) (m : MagSlot) (level : Bool) (strip : Half) :
    Acts c s (s.detectInput m level strip) := .of_aside (modMag_aside s _ _)

theorem syncFlags_aside (s : State) : Aside s s.syncFlags := .plain rfl rfl rfl rfl rfl rfl rfl

theorem debounce_acts (s : State) (m : MagSlot) : Acts c s (s.debounce m) := by
  simp only [debounce]
  split
  · exact .refl
  · exact (((passTo_acts s _).aside (syncFlags_aside _)).aside (modMag_aside _ _ _)).trans
      (presenceChange_acts _ _ _)

theorem paperEnd_acts (s : State) (m : MagSlot) (b : Bool) : Acts c s (s.paperEnd m b) := by
  have h : Acts c s (s.modMag (fun g => { g with endInput := b }) m) := .of_aside (modMag_aside s _ _)
  simp only [paperEnd]
  split
  · exact h.trans (takePaperEnd_acts _ _)
  · exact h

/-- The end of a changeover to `m` (R125), once the position stands. -/
theorem endChangeover_acts (s : State) (m : MagSlot) (o : Option MagSlot) : Acts c s
    (((({ s with transport.changeover := none } : State).clearRequest.thread m).giveUp o).leaveWork) := by
  have h : Acts c s ({ s with transport.changeover := none } : State).clearRequest :=
    .of_aside (.plain rfl rfl rfl rfl rfl rfl rfl)
  have hgive := (h.trans (thread_acts _ m)).trans (giveUp_acts _ o)
  exact hgive.aside (leaveWork_aside _)

theorem changeoverEnds_acts (s : State) : Acts c s s.changeoverEnds := by
  unfold changeoverEnds
  split
  · exact .refl
  · exact (passTo_acts s _).trans (endChangeover_acts _ _ _)

/-! ### Head and cutter events -/

theorem trims_acts (s : State) (r : CalRun) (m : Readings) :
    Acts c s { s with cal := s.cal.commit r m, sched.framesSinceCal := 0 } :=
  (Acts.single (.stores (.trims (k := s.cal.commit r m) CalUnit.commit_sound))).aside
    (.plain rfl rfl rfl rfl rfl rfl rfl)

/-- The outcome of a calibration is reported (R100), and the line leaves CALIBRATING. -/
theorem reportCalibration_aside (s : State) : Aside s (if s.cal.calibrated then s.raise .calDone
    else (s.raise .calFailed).addCause .head).leaveWork := by
  refine .trans ?_ (leaveWork_aside _)
  split
  · exact raise_aside _ _
  · exact (raise_aside _ _).trans (addCause_aside _ _)

theorem calibrationEnds_acts (s : State) (m : Readings) : Acts c s (s.calibrationEnds m) := by
  unfold calibrationEnds
  split
  · exact .refl
  · exact ((passTo_acts s _).trans (trims_acts _ _ m)).aside (reportCalibration_aside _)

theorem flushExpires_acts (s : State) : Acts c s s.flushExpires := by
  simp only [flushExpires]
  split
  · exact .refl
  · exact (passTo_acts s _).trans (startFlush_acts _)

theorem markRise_acts (s : State) : Acts c s s.markRise := by
  simp only [markRise]
  split
  · exact .refl
  · exact .of_aside (.plain rfl rfl rfl rfl rfl rfl rfl)

theorem markFall_acts (s : State) : Acts c s s.markFall := .of_aside (.plain rfl rfl rfl rfl rfl rfl rfl)

theorem bladeHome_acts (s : State) : Acts c s s.bladeHome :=
  (tryCut_acts _).after (.plain rfl rfl rfl rfl rfl rfl rfl)

theorem dwellEnds_acts (s : State) : Acts c s s.dwellEnds := by
  unfold dwellEnds
  split
  · exact after_passTo (F := fun t =>
      if t.cutter.homeInput then t.bladeHome else { t with cutter.blade := .returning t.ms })
      (fun t => by
        dsimp only
        split
        · exact bladeHome_acts t
        · exact .of_aside (.plain rfl rfl rfl rfl rfl rfl rfl)) s _
  · exact .refl

theorem returnTimeout_acts (s : State) : Acts c s s.returnTimeout := by
  unfold returnTimeout
  split
  · exact after_passTo (F := fun t => { t with cutter.blade := .stuck }.addCause .cutter)
      (fun _ => .of_aside (by
        refine Aside.after (addCause_aside _ _) ?_
        exact .plain rfl rfl rfl rfl rfl rfl rfl)) s _
  · exact .refl

theorem homeChange_acts (s : State) (b : Bool) : Acts c s (s.homeChange b) := by
  have h : Acts c s { s with cutter.homeInput := b } := .of_aside (.plain rfl rfl rfl rfl rfl rfl rfl)
  simp only [homeChange]
  split
  · split
    · exact h.trans (bladeHome_acts _)
    · exact h
  · split
    · exact h.trans (bladeHome_acts _)
    · exact h
  · exact h

/-! ### Processor, sorter and timer events -/

theorem sheetArrives_acts (s : State) : Acts c s s.sheetArrives := by
  unfold sheetArrives
  split
  · exact after_passTo (F := fun t => { t with monitor.sensor := true }.arrival)
      (fun _ => by
        refine Acts.after (c := c) (arrival_acts _) ?_
        exact .plain rfl rfl rfl rfl rfl rfl rfl) s _
  · exact .refl

theorem sensorClears_acts (s : State) : Acts c s s.sensorClears := by
  unfold sensorClears
  split
  · exact after_passTo (F := fun t => { t with monitor.sensor := false })
      (fun _ => .of_aside (.plain rfl rfl rfl rfl rfl rfl rfl)) s _
  · exact .refl

theorem entranceInput_acts (s : State) (b : Bool) : Acts c s (s.entranceInput b) := by
  simp only [entranceInput]
  split
  · exact .refl
  · exact .of_aside (.plain rfl rfl rfl rfl rfl rfl rfl)

theorem watchdogExpires_acts (s : State) : Acts c s s.watchdogExpires := by
  unfold watchdogExpires
  split
  · exact (passTo_acts s _).trans (jam_acts _)
  · exact .refl

theorem bucketAdvance_acts (s : State) : Acts c s s.bucketAdvance :=
  after_passTo (F := fun t => { t with
      monitor.second := s.monitor.second + 1
      monitor.buckets := modAt (fun _ => 0) t.monitor.buckets ((s.monitor.second + 1) % 60) }.dueAttempt)
    (fun _ => .of_aside (.plain rfl rfl rfl rfl rfl rfl rfl)) s _

theorem pulseEnds_acts (s : State) : Acts c s s.pulseEnds := by
  unfold pulseEnds
  split
  · exact after_passTo (F := fun t => { t with
        monitor.pulses := t.monitor.pulses - 1, monitor.pump := .gap t.ms t.monitor.replPulse })
      (fun _ => .of_aside (.plain rfl rfl rfl rfl rfl rfl rfl)) s _
  · exact .refl

theorem gapEnds_acts (s : State) : Acts c s s.gapEnds := by
  unfold gapEnds
  split
  · exact after_passTo (F := fun t => { t with monitor.pump := .idle }.startPump)
      (fun _ => .of_aside (by
        refine Aside.after (startPump_aside _) ?_
        exact .plain rfl rfl rfl rfl rfl rfl rfl)) s _
  · exact .refl

theorem gateOff_acts (s : State) : Acts c s s.gateOff := by
  unfold gateOff
  split
  · exact after_passTo (F := fun t => { t with sorter.gate := none })
      (fun _ => .of_aside (.plain rfl rfl rfl rfl rfl rfl rfl)) s _
  · exact .refl

theorem standbyExpires_acts (s : State) : Acts c s s.standbyExpires := by
  unfold standbyExpires
  split
  · exact (passTo_acts s _).aside (enterStandby_aside _)
  · exact .refl

theorem wakeExpires_acts (s : State) : Acts c s s.wakeExpires := by
  unfold wakeExpires
  split
  · exact after_passTo (F := fun t => { t with ctl.wakeTimer := none }.startCalibration .long)
      (fun _ => .of_aside (by
        refine Aside.after (startCalibration_aside _ _) ?_
        exact .plain rfl rfl rfl rfl rfl rfl rfl)) s _
  · exact .refl

end State

/-- Outside dead reckoning only the time base moves. -/
theorem State.elapse_aside (s : State) (us : Nat) (h : s.reckons = false) : Aside s (s.elapse us) := by
  simp only [elapse, h, Bool.false_eq_true, if_false]
  exact .plain rfl rfl rfl rfl rfl rfl rfl

/-! ### Every command -/

/-- A request is served to the ports it is open to (R179), by an answer that its block's acts reach. -/
theorem exec_serve {c : Instr} {code : Nat} {h : Hdr} {ps : List Byte} (e : encodeParams c = some (code, h, ps))
    (s : State) : ∃ a, exec c s = serve s h code (requestRoles code) a ∧ a.Reached c s := by
  cases c with
  | orderOpen h a => cases e; exact ⟨_, rfl, State.orderOpen_reached s a⟩
  | itemAdd h a => cases e; exact ⟨_, rfl, State.itemAdd_reached s a⟩
  | itemRemove h n k => cases e; exact ⟨_, rfl, State.itemRemove_reached s n k⟩
  | imageLoad h k w v => cases e; exact ⟨_, rfl, State.imageLoad_reached s k w v⟩
  | imageRelease h k => cases e; exact ⟨_, rfl, State.imageRelease_reached s k⟩
  | orderCommit h n b => cases e; exact ⟨_, rfl, State.orderCommit_reached s n b⟩
  | orderWithdraw h n => cases e; exact ⟨_, rfl, State.orderWithdraw_reached s n⟩
  | orderDiscard h n => cases e; exact ⟨_, rfl, State.orderDiscard_reached s n⟩
  | priceStage h a => cases e; exact ⟨_, rfl, State.priceStage_reached s a rfl⟩
  | priceStageGlobals h a => cases e; exact ⟨_, rfl, State.priceStageGlobals_reached s a rfl⟩
  | priceActivate h => cases e; exact ⟨_, rfl, State.priceActivate_reached s rfl⟩
  | orderSettle h n => cases e; exact ⟨_, rfl, State.orderSettle_reached s n⟩
  | orderPay h n x => cases e; exact ⟨_, rfl, State.orderPay_reached s n x⟩
  | orderCollect h n => cases e; exact ⟨_, rfl, State.orderCollect_reached s n⟩
  | orderCancel h n => cases e; exact ⟨_, rfl, State.orderCancel_reached s n⟩
  | orderHold h n => cases e; exact ⟨_, rfl, State.orderHold_reached s h.port n⟩
  | orderRelease h n => cases e; exact ⟨_, rfl, State.orderRelease_reached s h.port n⟩
  | orderReprint h n k x => cases e; exact ⟨_, rfl, State.orderReprint_reached s n k x⟩
  | lineRun h => cases e; exact ⟨_, rfl, State.lineRun_reached s⟩
  | linePause h => cases e; exact ⟨_, rfl, State.linePause_reached s⟩
  | lineReset h => cases e; exact ⟨_, rfl, State.lineReset_reached s⟩
  | lineWake h => cases e; exact ⟨_, rfl, State.lineWake_reached s⟩
  | faultClear h x => cases e; exact ⟨_, rfl, State.faultClear_reached s x⟩
  | headCalibrate h k p => cases e; exact ⟨_, rfl, State.headCalibrate_reached s k p⟩
  | calRefSet h r n => cases e; exact ⟨_, rfl, State.calRefSet_reached s r n⟩
  | patternSet h m => cases e; exact ⟨_, rfl, State.patternSet_reached s m⟩
  | testPrint h k n => cases e; exact ⟨_, rfl, State.testPrint_reached s k n⟩
  | correctionSet h k x => cases e; exact ⟨_, rfl, State.correctionSet_reached s k x⟩
  | correctionHold h m => cases e; exact ⟨_, rfl, State.correctionHold_reached s m⟩
  | curveLoad h k ch l => cases e; exact ⟨_, rfl, State.curveLoad_reached s k ch l⟩
  | driveLoad h ch l => cases e; exact ⟨_, rfl, State.driveLoad_reached s ch l⟩
  | backprintConfig h b x y => cases e; exact ⟨_, rfl, State.backprintConfig_reached s b x y⟩
  | magazineConfig h a => cases e; exact ⟨_, rfl, State.magazineConfig_reached s a⟩
  | magazinePresent h k b => cases e; exact ⟨_, rfl, State.magazinePresent_reached s k b⟩
  | rollSet h k l => cases e; exact ⟨_, rfl, State.rollSet_reached s k l⟩
  | pathConfig h x y z => cases e; exact ⟨_, rfl, State.pathConfig_reached s x y z⟩
  | cutterConfig h a => cases e; exact ⟨_, rfl, State.cutterConfig_reached s a⟩
  | processorConfig h a => cases e; exact ⟨_, rfl, State.processorConfig_reached s a⟩
  | routeSet h x y => cases e; exact ⟨_, rfl, State.routeSet_reached s x y⟩
  | standbyConfig h a => cases e; exact ⟨_, rfl, State.standbyConfig_reached s a⟩
  | binEmptied h b => cases e; exact ⟨_, rfl, State.binEmptied_reached s b⟩
  | itemSkip h n k => cases e; exact ⟨_, rfl, State.itemSkip_reached s n k⟩
  | jamClear h n => cases e; exact ⟨_, rfl, State.jamClear_reached s n⟩
  | orderStatus h n => cases e; exact ⟨_, rfl, State.orderStatus_reached s n⟩
  | orderList h b => cases e; exact ⟨_, rfl, State.orderList_reached s b⟩
  | binStatus h => cases e; exact ⟨_, rfl, reached_readOut _⟩
  | lineStatus h => cases e; exact ⟨_, rfl, reached_readOut _⟩
  | magazineStatus h => cases e; exact ⟨_, rfl, reached_readOut _⟩
  | priceRead h x y => cases e; exact ⟨_, rfl, State.priceRead_reached s x y⟩
  | flagsRead h => cases e; exact ⟨_, rfl, reached_readOut _⟩
  | flagsClear h m => cases e; exact ⟨_, rfl, State.flagsClear_reached s h.port m⟩
  | flagsEnable h m => cases e; exact ⟨_, rfl, State.flagsEnable_reached s h.port m⟩
  | powerOn | replyRead | malformedRequestFrame | frameValidRise | imageWordStrobe | frameValidFall |
    encoderTransition | encoderIndexPulse | encoderNoCountTimeout | deadReckoningAdvance |
    clearProbeSuccess | clearProbeFailure | detectInputChange | detectDebounced | paperEnd |
    changeoverComplete | calibrationComplete | flushTimerExpiry | markSensorRise | markSensorFall |
    bladeDwellEnd | bladeReturnTimeout | bladeHomeAsserted | sheetArrival | entranceSensorClear |
    transitWatchdogExpiry | bucketAdvance | pumpPulseEnd | pumpGapEnd | binGateOff | standbyTimerExpiry |
    wakeTimerExpiry | sorterEntranceInputChange => cases e

/-- A command other than power-on is a chain of its acts that comes to rest, or changes nothing but the
ports. -/
theorem exec_reached {c : Instr} {s t : State} (hc : c ≠ .powerOn) (e : exec c s = .next t) :
    Reached c s t := by
  cases hp : encodeParams c with
  | some x =>
    obtain ⟨a, ha, hr⟩ := exec_serve (ps := x.2.2) hp s
    exact reached_serve hr (ha ▸ e)
  | none =>
    cases c with
    | powerOn => exact absurd rfl hc
    | replyRead p n => cases e; exact (Reached.same s).ports (State.replyRead_ports s p n)
    | malformedRequestFrame p bs b => cases e; exact (Reached.same s).ports (State.malformed_ports s p bs b)
    | frameValidRise => exact reached_event (State.frameRise_acts s) e
    | imageWordStrobe w lv => exact reached_event (State.wordStrobe_acts s w lv rfl) e
    | frameValidFall => exact reached_event (State.frameFall_acts s) e
    | encoderTransition b => exact reached_event (State.transition_acts s b) e
    | encoderIndexPulse => exact reached_event (State.indexPulse_acts s) e
    | encoderNoCountTimeout => exact reached_event (State.noCount_acts s) e
    | deadReckoningAdvance us => exact reached_event (State.reckon_acts s us) e
    | clearProbeSuccess => exact reached_event (State.probeSuccess_acts s) e
    | clearProbeFailure => exact reached_event (State.probeFailure_acts s) e
    | detectInputChange m b x => exact reached_event (State.detectInput_acts s m b x) e
    | detectDebounced m => exact reached_event (State.debounce_acts s m) e
    | paperEnd m b => exact reached_event (State.paperEnd_acts s m b) e
    | changeoverComplete => exact reached_event (State.changeoverEnds_acts s) e
    | calibrationComplete m => exact reached_event (State.calibrationEnds_acts s m) e
    | flushTimerExpiry => exact reached_event (State.flushExpires_acts s) e
    | markSensorRise => exact reached_event (State.markRise_acts s) e
    | markSensorFall => exact reached_event (State.markFall_acts s) e
    | bladeDwellEnd => exact reached_event (State.dwellEnds_acts s) e
    | bladeReturnTimeout => exact reached_event (State.returnTimeout_acts s) e
    | bladeHomeAsserted b => exact reached_event (State.homeChange_acts s b) e
    | sheetArrival => exact reached_event (State.sheetArrives_acts s) e
    | entranceSensorClear => exact reached_event (State.sensorClears_acts s) e
    | transitWatchdogExpiry => exact reached_event (State.watchdogExpires_acts s) e
    | bucketAdvance => exact reached_event (State.bucketAdvance_acts s) e
    | pumpPulseEnd => exact reached_event (State.pulseEnds_acts s) e
    | pumpGapEnd => exact reached_event (State.gapEnds_acts s) e
    | binGateOff => exact reached_event (State.gateOff_acts s) e
    | standbyTimerExpiry => exact reached_event (State.standbyExpires_acts s) e
    | wakeTimerExpiry => exact reached_event (State.wakeExpires_acts s) e
    | sorterEntranceInputChange b => exact reached_event (State.entranceInput_acts s b) e
    | orderOpen | itemAdd | itemRemove | imageLoad | imageRelease | orderCommit | orderWithdraw |
      orderDiscard | priceStage | priceStageGlobals | priceActivate | orderSettle | orderPay | orderCollect
      | orderCancel | orderHold | orderRelease | orderReprint | lineRun | linePause | lineReset | lineWake
      | faultClear | headCalibrate | calRefSet | patternSet | testPrint | correctionSet | correctionHold |
      curveLoad | driveLoad | backprintConfig | magazineConfig | magazinePresent | rollSet | pathConfig |
      cutterConfig | processorConfig | routeSet | standbyConfig | binEmptied | itemSkip | jamClear |
      orderStatus | orderList | binStatus | lineStatus | magazineStatus | priceRead | flagsRead |
      flagsClear | flagsEnable => cases hp

/-- The ways a step can go: power-on, a command's acts, or the time base alone moving on. -/
theorem step_cases {s t : State} (e : step s = .next t) :
    (∃ rest, t = ({ s with pending := rest } : State).repower) ∨
      (∃ c rest, Reached c { s with pending := rest } t) ∨
      (s.reckons = false ∧ t = s.elapse 1) := by
  cases hp : s.pending with
  | nil =>
    simp only [step, hp, Host.Outcome.next.injEq] at e
    subst e
    cases hr : s.reckons with
    | false => simp [State.idle, hr]
    | true =>
      refine .inr (.inl ⟨.deadReckoningAdvance 1, s.pending, ?_⟩)
      simp only [State.idle, hr, if_true]
      exact .settles (State.pass_acts s 1)
  | cons c rest =>
    simp only [step, hp] at e
    by_cases hc : c = .powerOn
    · subst hc
      cases e
      exact .inl ⟨rest, rfl⟩
    · exact .inr (.inl ⟨c, rest, exec_reached hc e⟩)

/-- An invariant: what the queue and the ports leave, every act and every coming to rest keep, and power-on
establishes, every step keeps. -/
theorem step_keeps {P : State → Prop}
    (hqueue : ∀ s rest, P s → P { s with pending := rest })
    (hports : ∀ s ps, P s → P { s with ports := ps })
    (hact : ∀ c s t, Act c s t → P s → P t)
    (hrest : ∀ before s, P s → P (State.settle before s))
    (hon : ∀ s : State, P s.repower)
    {s t : State} (e : step s = .next t) (hs : P s) : P t := by
  rcases step_cases e with ⟨rest, rfl⟩ | ⟨c, rest, v, hv, ht⟩ | ⟨_, rfl⟩
  · exact hon _
  · rw [ht.same]
    apply hports
    rcases hv with rfl | ⟨u, hu, rfl⟩
    · exact hqueue s rest hs
    · exact hrest _ _ (hu.keeps (hact c) (hqueue s rest hs))
  · exact hact .powerOn _ _ (.aside (State.elapse_aside s 1 ‹_›)) hs

end Sys2Proof.Machine
end


section
/-! The stored data: what the acts leave of it, and that it stays within its bounds (O2, O9, O15). -/

set_option Elab.async false

namespace Sys2Proof.Machine

/-! ### Which acts touch what -/

/-- An act that is none of those that write the stored data leaves it. -/
theorem Act.storing_or_stored {c : Instr} {s t : State} (h : Act c s t) :
    Storing c s t ∨ t.stored = s.stored := by
  cases h with
  | aside h => exact .inr h.stored
  | stores h => exact .inl h
  | steers h => obtain ⟨tr, us, rfl⟩ := h.leaves; exact .inr rfl
  | commits => exact .inr (State.setOrderState_stored _ _ _)
  | withdraws => exact .inr (by simp)
  | gaps => exact .inr rfl
  | unpapers => exact .inr (State.stored_of_lasting (State.releasePaper1_lasting _ _))
  | sorts => exact .inr (State.sortSheet_stored _ _)
  | opens | addsItem | dropsItem | dropsSlot | discards | collects | cancels | notes | holds | releases
  | reprints | skips | empties | losesHead | aborts | dropsWeb | resetsActive | cuts =>
    exact .inr (by simp)

/-! ### The page pool -/

/-- The page lists hold no page twice, and none beyond the DRAM. -/
def PagesSound (pages : List (List Nat)) : Prop := pages.flatten.Nodup ∧ ∀ p ∈ pages.flatten, p < 131072

theorem length_le_of_nodup_lt {l : List Nat} {n : Nat} (hn : l.Nodup) (hlt : ∀ x ∈ l, x < n) :
    l.length ≤ n := by
  simpa using (hn.subperm (l₂ := List.range n) fun x hx => List.mem_range.2 (hlt x hx)).length_le

theorem pagesSound_iff (m : ImageStore) : m.pagesSound ↔ PagesSound (m.slots.map (·.pages)) := by
  have hall : m.allocated = (m.slots.map (·.pages)).flatten := List.flatMap_def
  simp only [ImageStore.pagesSound, PagesSound, ImageStore.freePages, Config.dramPages, ← hall]
  constructor
  · exact fun ⟨hn, hlt, _⟩ => ⟨hn, hlt⟩
  · intro ⟨hn, hlt⟩
    have := length_le_of_nodup_lt hn hlt
    exact ⟨hn, hlt, by omega⟩

/-- A list of lists with one of them replaced holds at most the new one and what it held. -/
theorem flatten_modAt_subperm {α : Type} (ps : List α) : ∀ (L : List (List α)) (k : Nat),
    (modAt (fun _ => ps) L k).flatten.Subperm (ps ++ L.flatten)
  | [], _ => List.nil_subperm
  | _ :: _, 0 => by
    simp only [modAt, List.flatten_cons]
    exact ((List.sublist_append_right _ _).append_left ps).subperm
  | x :: xs, k + 1 => by
    simp only [modAt, List.flatten_cons]
    refine ((List.subperm_append_left x).2 (flatten_modAt_subperm ps xs k)).trans ?_
    rw [← List.append_assoc, ← List.append_assoc]
    exact (List.perm_append_comm.append_right _).subperm

theorem flatten_modAt_nil_sublist {α : Type} : ∀ (L : List (List α)) (k : Nat),
    (modAt (fun _ => []) L k).flatten.Sublist L.flatten
  | [], _ => .refl _
  | x :: _, 0 => by simp only [modAt, List.flatten_cons, List.nil_append]; exact List.sublist_append_right x _
  | x :: xs, k + 1 => by
    simp only [modAt, List.flatten_cons]
    exact (flatten_modAt_nil_sublist xs k).append_left x

/-- A list emptied takes its entries out of the count. -/
theorem length_flatten_modAt_nil {α : Type} : ∀ (L : List (List α)) (k : Nat),
    (modAt (fun _ => []) L k).flatten.length + (L.getD k []).length = L.flatten.length
  | [], _ => rfl
  | x :: xs, 0 => by simp [modAt, Nat.add_comm]
  | x :: xs, k + 1 => by
    have := length_flatten_modAt_nil xs k
    simp only [modAt, List.flatten_cons, List.length_append, List.getD_cons_succ]
    omega

theorem lowestFree_spec (used : List Nat) : ∀ fuel n p : Nat,
    (lowestFree used fuel n p).Nodup ∧ ∀ q ∈ lowestFree used fuel n p, q ∉ used ∧ p ≤ q ∧
      q < p + n + (used.filter (p ≤ ·)).length
  | 0, _, _ => by simp [lowestFree]
  | _ + 1, 0, _ => by simp [lowestFree]
  | fuel + 1, n + 1, p => by
    have hle : (used.filter (p + 1 ≤ ·)).length ≤ (used.filter (p ≤ ·)).length :=
      (List.monotone_filter_right used fun q hq => by simp at hq ⊢; omega).length_le
    by_cases hp : used.contains p = true
    · have hlt : (used.filter (p + 1 ≤ ·)).length < (used.filter (p ≤ ·)).length := by
        have hsplit : used.filter (p + 1 ≤ ·) = (used.filter (p ≤ ·)).filter (p + 1 ≤ ·) := by
          rw [List.filter_filter]
          exact List.filter_congr fun q _ => by simp; omega
        rw [hsplit, List.length_filter_lt_length_iff_exists]
        exact ⟨p, by simpa using hp, by simp⟩
      obtain ⟨hn, hq⟩ := lowestFree_spec used fuel (n + 1) (p + 1)
      rw [lowestFree, if_pos hp]
      refine ⟨hn, fun q h => ?_⟩
      obtain ⟨hnot, hge, hb⟩ := hq q h
      exact ⟨hnot, by omega, by omega⟩
    · obtain ⟨hn, hq⟩ := lowestFree_spec used fuel n (p + 1)
      rw [lowestFree, if_neg hp]
      refine ⟨List.nodup_cons.2 ⟨fun h => absurd (hq p h).2.1 (by omega), hn⟩, fun q h => ?_⟩
      rcases List.mem_cons.1 h with rfl | h
      · exact ⟨by simpa using hp, le_rfl, by omega⟩
      · obtain ⟨hnot, hge, hb⟩ := hq q h
        exact ⟨hnot, by omega, by omega⟩

/-- The pages that a load takes are new, and within the DRAM where there is room. -/
theorem take_spec (m : ImageStore) (n : Nat) :
    (m.take n).Nodup ∧ ∀ q ∈ m.take n, q ∉ m.allocated ∧ q < n + m.allocated.length := by
  obtain ⟨hn, hq⟩ := lowestFree_spec m.allocated (n + m.allocated.length) n 0
  refine ⟨hn, fun q h => ?_⟩
  obtain ⟨hnot, _, hb⟩ := hq q h
  have := List.length_filter_le (0 ≤ ·) m.allocated
  exact ⟨hnot, by omega⟩

theorem PagesSound.freed {L : List (List Nat)} (h : PagesSound L) (k : Nat) :
    PagesSound (modAt (fun _ => []) L k) :=
  have hsub := flatten_modAt_nil_sublist L k
  ⟨h.1.sublist hsub, fun p hp => h.2 p (hsub.subset hp)⟩

theorem PagesSound.taken {L : List (List Nat)} {ps : List Nat} (h : PagesSound L) (k : Nat)
    (hn : ps.Nodup) (hps : ∀ p ∈ ps, p ∉ L.flatten ∧ p < 131072) :
    PagesSound (modAt (fun _ => ps) L k) := by
  have hsub := flatten_modAt_subperm ps L k
  refine ⟨?_, fun p hp => ?_⟩
  · have hall : (ps ++ L.flatten).Nodup :=
      List.nodup_append.2 ⟨hn, h.1, fun a ha b hb e => (hps a ha).1 (e ▸ hb)⟩
    obtain ⟨l, hl, hs⟩ := hsub
    exact (hl.nodup_iff).1 (hall.sublist hs)
  · rcases List.mem_append.1 (hsub.subset hp) with hp | hp
    · exact (hps p hp).2
    · exact h.2 p hp

theorem map_modAt {α β : Type} (g : α → β) (f : α → α) (f' : β → β) (h : ∀ x, g (f x) = f' (g x)) :
    ∀ (l : List α) (i : Nat), (modAt f l i).map g = modAt f' (l.map g) i
  | [], _ => rfl
  | x :: xs, 0 => by simp [modAt, h]
  | x :: xs, i + 1 => by simp [modAt, map_modAt g f f' h xs i]

/-! ### The invariant of the stored data -/

theorem State.takeWord_dram (s : State) (l : Load) (x : ImageSlot) (z : ImageSize) (w : Half) :
    (s.takeWord l x z w).stored = { s.stored with dram := (s.takeWord l x z w).images.dram } := by
  obtain ⟨m, ld, e⟩ := s.takeWord_images l x z w
  rw [e]
  rfl

/-- `StoreSound` reads nothing but the stored data. -/
theorem storeSound_iff (s : State) : StoreSound s ↔ s.prices.Sound ∧ Memory.wf s.images.dram = true ∧
    s.engine.TablesSound ∧ rgbAll trimSound s.cal.trim = true ∧ PagesSound s.stored.pages := by
  simp only [StoreSound, PriceUnit.Sound, Engine.TablesSound, pagesSound_iff, State.stored, and_assoc]

theorem storeSound_of_stored {s t : State} (h : t.stored = s.stored) (hs : StoreSound s) : StoreSound t := by
  have hprices : t.prices = s.prices := congrArg Stored.prices h
  have hdram : t.images.dram = s.images.dram := congrArg Stored.dram h
  have hcurves : t.engine.curves = s.engine.curves := congrArg Stored.curves h
  have hdrive : t.engine.drive = s.engine.drive := congrArg Stored.drive h
  have hstaged : t.engine.staged = s.engine.staged := congrArg Stored.staged h
  have htrim : t.cal.trim = s.cal.trim := congrArg Stored.trim h
  rw [storeSound_iff] at hs ⊢
  simpa only [hprices, hdram, Engine.TablesSound, hcurves, hdrive, hstaged, htrim, h] using hs

/-- The page lists after IMAGE_LOAD took its pages. -/
theorem loads_pagesSound {m : ImageStore} {k n : Nat} (h : m.pagesSound)
    (room : n ≤ m.freePages + (m.slot k).pages.length) :
    PagesSound (modAt (fun _ => (m.modSlot k fun x => { x with pages := [] }).take n)
      (modAt (fun _ => []) (m.slots.map (·.pages)) k) k) := by
  have hsound := (pagesSound_iff m).1 h
  have hmap : (m.modSlot k fun x => { x with pages := [] }).slots.map (·.pages) =
      modAt (fun _ => []) (m.slots.map (·.pages)) k :=
    map_modAt (·.pages) (fun x : ImageSlot => { x with pages := [] }) _ (fun _ => rfl) _ _
  have hall : (m.modSlot k fun x => { x with pages := [] }).allocated =
      (modAt (fun _ => []) (m.slots.map (·.pages)) k).flatten := by
    rw [← hmap]; exact List.flatMap_def
  obtain ⟨hn, hq⟩ := take_spec (m.modSlot k fun x => { x with pages := [] }) n
  refine (hsound.freed k).taken k hn fun q h' => ?_
  obtain ⟨hnot, hlt⟩ := hq q h'
  have hlen := length_flatten_modAt_nil (m.slots.map (·.pages)) k
  have hold : m.allocated.length = (m.slots.map (·.pages)).flatten.length :=
    congrArg _ List.flatMap_def
  have hslot : ((m.slots.map (·.pages)).getD k []).length = (m.slot k).pages.length := by
    simp only [ImageStore.slot, List.getD_eq_getElem?_getD, List.getElem?_map]
    cases m.slots[k]? <;> rfl
  obtain ⟨_, _, htotal⟩ := h
  rw [hall] at hnot hlt
  exact ⟨hnot, by omega⟩

theorem Storing.keeps_sound {c : Instr} {s t : State} (h : Storing c s t) (hs : StoreSound s) :
    StoreSound t := by
  rw [storeSound_iff] at hs ⊢
  obtain ⟨hp, hm, he, ht, hpages⟩ := hs
  cases h with
  | prices _ sound => exact ⟨sound hp, hm, he, ht, hpages⟩
  | tables _ sound => exact ⟨hp, hm, sound he, ht, hpages⟩
  | trims sound => exact ⟨hp, hm, he, sound ht, hpages⟩
  | @freesSlot k =>
    refine ⟨hp, hm, he, ht, ?_⟩
    rw [State.freeSlot_stored]
    exact hpages.freed k
  | @loads k n z l room =>
    refine ⟨hp, hm, he, ht, ?_⟩
    have htaken := loads_pagesSound ((pagesSound_iff s.images).2 hpages) room
    rwa [← map_modAt (·.pages) (fun x : ImageSlot => { x with pages := [] }) _ (fun _ => rfl),
      ← map_modAt (·.pages) (fun x : ImageSlot => { x with
        state := .loading, size := some z
        pages := (s.images.modSlot k fun x => { x with pages := [] }).take n }) _ (fun _ => rfl)] at htaken
  | @takesWord w lv l x z =>
    have hwf := State.takeWord_wf s l x z w hm
    obtain ⟨m, ld, e⟩ := s.takeWord_images l x z w
    rw [e] at hwf ⊢
    exact ⟨hp, hwf, he, ht, hpages⟩

theorem Act.keeps_storeSound {c : Instr} {s t : State} (h : Act c s t) (hs : StoreSound s) :
    StoreSound t := by
  rcases h.storing_or_stored with h | h
  · exact h.keeps_sound hs
  · exact storeSound_of_stored h hs

/-! ### What is written by which command -/

/-- Only the three price requests write the price tables. -/
theorem Act.keeps_prices {c : Instr} {s t : State} (h : Act c s t) (hc : pricing c = false) :
    t.prices = s.prices := by
  rcases h.storing_or_stored with h | h
  · cases h with
    | prices stages => rw [hc] at stages; cases stages
    | takesWord => exact congrArg Stored.prices (State.takeWord_dram _ _ _ _ _)
    | loads | freesSlot | tables | trims => rfl
  · exact congrArg Stored.prices h

/-- Only a word strobe writes the DRAM. -/
theorem Act.keeps_dram {c : Instr} {s t : State} (h : Act c s t) (hc : ∀ w lv, c ≠ .imageWordStrobe w lv) :
    t.images.dram = s.images.dram := by
  rcases h.storing_or_stored with h | h
  · cases h with
    | takesWord strobe => exact absurd strobe (hc _ _)
    | prices | loads | freesSlot | tables | trims => rfl
  · exact congrArg Stored.dram h

/-- No act touches the queue of waiting commands. -/
theorem Act.keeps_pending {c : Instr} {s t : State} (h : Act c s t) : t.pending = s.pending := by
  rcases h.storing_or_stored with h | h
  · cases h with
    | takesWord => exact congrArg Stored.pending (State.takeWord_dram _ _ _ _ _)
    | prices | loads | freesSlot | tables | trims => rfl
  · exact congrArg Stored.pending h

/-- A part of the stored data that a command's acts keep, the command keeps. -/
theorem stored_of_reached {α : Type} {c : Instr} {s t : State} (f : Stored → α) (h : Reached c s t)
    (hact : ∀ s t, Act c s t → f t.stored = f s.stored) : f t.stored = f s.stored := by
  obtain ⟨v, hv, ht⟩ := h
  rw [ht.same]
  show f v.stored = f s.stored
  rcases hv with rfl | ⟨u, hu, rfl⟩
  · rfl
  · rw [State.settle_stored]
    exact hu.keeps (P := fun x => f x.stored = f s.stored) (fun a b hab ha => (hact a b hab).trans ha) rfl

theorem reset_storeSound : StoreSound State.reset := by
  rw [storeSound_iff]
  refine ⟨⟨by decide +kernel, by decide +kernel, by decide⟩, rfl,
    ⟨by decide +kernel, by decide +kernel, by decide +kernel⟩, by decide +kernel, ?_⟩
  have hnone : State.reset.stored.pages.flatten = [] :=
    List.flatten_eq_nil_iff.2 fun l hl => by
      obtain ⟨x, hx, rfl⟩ := List.mem_map.1 hl
      rw [List.eq_of_mem_replicate hx]
      rfl
  simp [PagesSound, hnone]

theorem repower_storeSound (s : State) : StoreSound s.repower :=
  have hqueue : StoreSound { State.reset with pending := s.pending } := reset_storeSound
  storeSound_of_stored rfl hqueue

/-- Every command is carried out. -/
theorem exec_next (c : Instr) (s : State) : ∃ t, exec c s = .next t := by
  cases c <;> exact ⟨_, rfl⟩

end Sys2Proof.Machine

namespace Sys2Proof.Proofs

open Sys2Proof.Machine Sys2Proof.Machine.State

/-- Settles O2: `exec` answers the next state for each command, and no act touches the queue. -/
theorem everyCommandCompletes : Obligations.EveryCommandCompletes := by
  unfold Obligations.EveryCommandCompletes
  intro c s
  obtain ⟨t, ht⟩ := exec_next c s
  refine ⟨t, ht, ?_⟩
  by_cases hc : c = .powerOn
  · subst hc; cases ht; rfl
  · exact stored_of_reached Stored.pending (exec_reached hc ht) fun _ _ h => h.keeps_pending

/-- Settles O9: the bounds are kept by each act that writes the stored data, and coming to rest writes none. -/
theorem storedDataStaysSound : Obligations.StoredDataStaysSound := by
  unfold Obligations.StoredDataStaysSound
  intro s t hs e
  exact step_keeps (fun _ _ h => h) (fun _ _ h => h) (fun _ _ _ h => h.keeps_storeSound)
    (fun before s h => storeSound_of_stored (State.settle_stored before s) h) repower_storeSound e hs

/-- Settles O15: of the acts, only a word taken writes the DRAM, and only the price requests' the prices. -/
theorem fewCommandsWriteDramAndPrices : Obligations.FewCommandsWriteDramAndPrices := by
  unfold Obligations.FewCommandsWriteDramAndPrices
  intro c s t e hc
  have hr := exec_reached hc e
  constructor
  · intro hw a
    rw [show t.images.dram = s.images.dram from
      stored_of_reached Stored.dram hr fun _ _ h => h.keeps_dram hw]
  · intro h1 h2 h3
    have hp : pricing c = false := by
      cases c with
      | priceStage h a => exact absurd rfl (h1 h a)
      | priceStageGlobals h a => exact absurd rfl (h2 h a)
      | priceActivate h => exact absurd rfl (h3 h)
      | _ => rfl
    exact stored_of_reached Stored.prices hr fun _ _ h => h.keeps_prices hp

end Sys2Proof.Proofs
end


section
/-! The order book stays consistent: each act keeps it so, and so does coming to rest (O11). -/

set_option Elab.async false

namespace Sys2Proof.Machine

theorem Order.key_of_ledger {a b : Order} (h : a.ledger = b.ledger) : a.key = b.key := by
  show a.ledger.key = b.ledger.key
  rw [h]

namespace State

theorem live_of_state {s : State} {i : Nat} {st : OrderState} (h : (s.orderAt i).state = st)
    (hst : st ≠ .free) : (s.orderAt i).live = true := by
  simp [Order.live, h, hst]

theorem live_of_committed {o : Order} (h : o.committedState = true) : o.live = true := by
  simp only [Order.committedState] at h
  simp only [Order.live, bne_iff_ne]
  intro e
  rw [e] at h
  cases h

theorem removeSlotItems_sound {s : State} (h : BookSound s) (k : Nat) : BookSound (s.removeSlotItems k) := by
  refine h.of_keys ?_ rfl rfl
  simp only [removeSlotItems, List.map_map]
  exact List.map_congr_left fun o _ => by
    simp only [Function.comp_apply]
    split <;> rfl

theorem releasePaper1_sound {s : State} (h : BookSound s) (i : Nat) : BookSound (s.releasePaper1 i) := by
  simp only [releasePaper1]
  split
  · refine leaveHeld_sound (h.modOrder i _ ?_) i
    exact fun _ => rfl
  · exact h

/-- What ORDER_COMMIT makes of an OPEN record keeps the book sound. -/
theorem commits_sound {s : State} (h : BookSound s) {i : Nat} (opened : (s.orderAt i).state = .opened)
    (pre : Bool) : BookSound (({ s.modOrder i (fun _ => s.committed (s.orderAt i) pre) with
      book.sequence := s.book.sequence + 1 } : State).setOrderState i .queued) := by
  have hl := live_of_state opened (by simp)
  have hseq : BookSound { s.modOrder i (fun _ => s.committed (s.orderAt i) pre) with
      book.sequence := s.book.sequence + 1 } :=
    sequence_sound (r := s.committed (s.orderAt i) pre) h hl opened opened rfl rfl rfl (.inr ⟨rfl, rfl⟩)
  have hat : ({ s.modOrder i (fun _ => s.committed (s.orderAt i) pre) with
      book.sequence := s.book.sequence + 1 } : State).orderAt i = s.committed (s.orderAt i) pre :=
    modOrder_same s _ (lt_of_live hl)
  exact hseq.setOrderState (by rw [hat]; exact hl) (by simp) (by simp) (.inl (by rw [hat]; rfl))

/-- What ORDER_WITHDRAW makes of a record. -/
def withdrawn (o : Order) : Order :=
  { o with
    state := .opened, lock := none, sequence := none, settled := none, bins := []
    index := o.index.map fun x => { x with product := none } }

/-- The state ORDER_WITHDRAW leaves. -/
def withdraw (s : State) (i : Nat) : State :=
  ((s.setOrderState i .opened).freeBinList (s.orderAt i).bins).modOrder i fun o =>
    { o with
      lock := none, sequence := none, settled := none, bins := []
      index := o.index.map fun x => { x with product := none } }

theorem withdraw_records (s : State) (i : Nat) :
    (s.withdraw i).book.records = modAt withdrawn s.book.records i := by
  rw [withdraw, modOrder_book, freeBinList_book]
  dsimp only
  rw [setOrderState_records, modAt_modAt]
  rfl

theorem withdraw_sound {s : State} (h : BookSound s) {i : Nat} (queued : (s.orderAt i).state = .queued) :
    BookSound (s.withdraw i) := by
  have hl := live_of_state queued (by simp)
  have hopen := (h.setOrderState (st := .opened) hl (by simp) (by simp) (.inr (.inl rfl))).of_book
    (freeBinList_book _ (s.orderAt i).bins)
  have hat : ((s.setOrderState i .opened).freeBinList (s.orderAt i).bins).orderAt i =
      { s.orderAt i with state := .opened } := by
    rw [orderAt_congr (s := s.setOrderState i .opened) (by rw [freeBinList_book]) i]
    exact setOrderState_same s _ (lt_of_live hl)
  refine sequence_sound (r := withdrawn (s.orderAt i)) hopen (i := i) (by rw [hat]; rfl) (by rw [hat]) rfl
    (by rw [hat]; rfl) ?_ rfl (.inl ⟨rfl, rfl⟩)
  refine modAt_congr_at _ _ _ i Order.free ?_
  rw [show List.getD _ i Order.free = { s.orderAt i with state := .opened } from hat]
  rfl

/-- What ORDER_REPRINT makes of a READY record keeps the book sound. -/
theorem reprints_sound {s : State} (h : BookSound s) {i : Nat} (ready : (s.orderAt i).state = .ready)
    (k n : Nat) (bs : List Nat) : BookSound (((s.moveCounts i k fun m =>
      { m with c := m.c + n, p := m.p + n }).reopenBins bs).setOrderState i .queued) := by
  have hl := live_of_state ready (by simp)
  have hmove := (moveCounts_sound h i k fun m => { m with c := m.c + n, p := m.p + n }).of_book
    (t := (s.moveCounts i k fun m => { m with c := m.c + n, p := m.p + n }).reopenBins bs) rfl
  refine setOrderState_sound_of_committed hmove ?_ (by simp) (by simp)
  show ((s.modOrder i _).orderAt i).committedState = true
  rw [modOrder_same s _ (lt_of_live hl)]
  have hst : ∀ o : Order, ∀ f, (o.modCounts k f).state = o.state := fun o f =>
    congrArg (·.2.1) (modCounts_key o k f)
  simp only [Order.committedState, hst, ready]

theorem gaps_book (s : State) (start : Nat) : ({ s with
    cutter.web := s.cutter.web ++ [s.cutter.newRecord .closing none start 48 0]
    engine.work := .closing start 0 } : State).book = s.book := rfl

end State

open State in
theorem Act.keeps_bookSound {c : Instr} {s t : State} (h : Act c s t) (hs : BookSound s) : BookSound t := by
  cases h with
  | aside h => exact hs.of_book h.book
  | stores h => exact hs.of_book h.leaves.1
  | steers h => obtain ⟨tr, us, rfl⟩ := h.leaves; exact hs.of_book rfl
  | opens free named unused =>
    have hf := firstRecord_some free
    exact open_sound hs hf.1 (by simpa [orderAt] using hf.2) rfl named unused rfl
  | addsItem | dropsItem => exact hs.modOrder _ _ fun _ => rfl
  | dropsSlot => exact removeSlotItems_sound hs _
  | commits opened => exact commits_sound hs opened _
  | withdraws queued => exact withdraw_sound hs queued
  | discards => exact freeOrder_sound hs _
  | collects => exact freeOrder_sound (hs.of_book (freeBinList_book _ _)) _
  | cancels committed => exact cancel_sound hs _ committed
  | notes same => exact hs.modOrder _ _ fun o => Order.key_of_ledger (same o)
  | holds => exact addHold_sound hs _ _
  | releases => exact release_sound hs _ _
  | unpapers => exact releasePaper1_sound hs _
  | reprints ready => exact reprints_sound hs ready _ _ _
  | skips => exact afterSkip_sound (moveCounts_sound hs _ _ _) _
  | empties => exact hs.of_book (freeBinList_book _ _)
  | losesHead => exact loseHead_sound hs
  | sorts =>
    refine sortSheet_sound (hs.of_book ?_) _
    rfl
  | aborts => exact abortWaste_sound hs
  | dropsWeb => exact dropWeb_sound hs
  | resetsActive => exact resetActive_sound hs
  | cuts => exact hs.of_book (fireCut_book _)
  | gaps => exact hs.of_book (gaps_book _ _)

/-- A table of free records is a consistent book. -/
theorem bookSound_of_free {s : State} (hr : s.book.records = List.replicate Config.orderRecords Order.free)
    (hq : s.book.queue = []) : BookSound s := by
  have hfree : ∀ i, s.orderAt i = Order.free := fun i => by
    simp only [State.orderAt, hr, List.getD_eq_getElem?_getD, List.getElem?_replicate]
    split <;> rfl
  constructor <;> simp [hr, hq, hfree, Order.free, Order.live, Order.committedState]

theorem repower_bookSound (s : State) : BookSound s.repower := bookSound_of_free rfl rfl

end Sys2Proof.Machine

namespace Sys2Proof.Proofs

open Sys2Proof.Machine Sys2Proof.Machine.State

/-- Settles O11: each act keeps the book consistent, and so does coming to rest. -/
theorem orderBookStaysSound : Obligations.OrderBookStaysSound := by
  unfold Obligations.OrderBookStaysSound
  intro s t hs e
  exact step_keeps (fun _ _ h => h.of_book rfl) (fun _ _ h => h.of_book rfl)
    (fun _ _ _ h => h.keeps_bookSound) (fun _ _ h => settle_sound h) repower_bookSound e hs

end Sys2Proof.Proofs
end


section
/-! The prints of the orders accounted for against a list of prints in flight (`Accounted`), and that moves
of orders and counters keep the account. -/

set_option Elab.async false

namespace Sys2Proof.Machine

/-! ### Counters of one order -/

theorem total_eq_sum (xs : List Nat) : total xs = xs.sum := rfl

namespace Order

theorem sum_eq_zero {o : Order} {f : Counts → Nat} : o.sum f = 0 ↔ ∀ n ∈ o.counts, f n = 0 := by
  simp [Order.sum, total_eq_sum, List.sum_eq_zero_iff_forall_eq_nat]

theorem mem_counts_of_countsAt {o : Order} {k : Nat} {n : Counts} (h : o.countsAt k = some n) :
    n ∈ o.counts := by
  simp only [countsAt] at h
  simp only [counts, List.mem_append]
  split at h
  · exact .inr (by simp [h])
  · obtain ⟨x, hx, rfl⟩ := Option.map_eq_some_iff.1 h
    exact .inl (List.mem_map_of_mem (List.mem_of_getElem? hx))

theorem exists_countsAt {o : Order} {n : Counts} (h : n ∈ o.counts) : ∃ k, o.countsAt k = some n := by
  simp only [counts, List.mem_append] at h
  rcases h with h | h
  · obtain ⟨x, hx, rfl⟩ := List.mem_map.1 h
    obtain ⟨k, hk⟩ := List.getElem?_of_mem hx
    exact ⟨k + 1, by simp [countsAt, hk]⟩
  · exact ⟨0, by simpa [countsAt] using h⟩

theorem countsAt_modCounts_ne (o : Order) {k j : Nat} (f : Counts → Counts) (h : j ≠ k) :
    (o.modCounts k f).countsAt j = o.countsAt j := by
  simp only [countsAt, modCounts]
  by_cases hk : k = 0
  · subst hk
    simp only [if_true, if_neg h]
  · simp only [if_neg hk]
    by_cases hj : j = 0
    · simp only [hj, if_true]
    · simp only [if_neg hj, modAt_getElem?]
      rw [if_neg (by omega)]

theorem countsAt_mapCounts (o : Order) (f : Counts → Counts) (k : Nat) :
    (o.mapCounts f).countsAt k = (o.countsAt k).map f := by
  simp only [countsAt, mapCounts, List.getElem?_map]
  split
  · cases o.index <;> rfl
  · cases o.items[k - 1]? <;> rfl

/-- The counters of an order after a move are those it had, but for the item moved. -/
theorem mem_counts_modCounts {o : Order} {k : Nat} {f : Counts → Counts} {n : Counts}
    (h : n ∈ (o.modCounts k f).counts) : n ∈ o.counts ∨ ∃ m, o.countsAt k = some m ∧ n = f m := by
  obtain ⟨j, hj⟩ := exists_countsAt h
  by_cases e : j = k
  · subst e
    rw [countsAt_modCounts] at hj
    obtain ⟨m, hm, e⟩ := Option.map_eq_some_iff.1 hj
    exact .inr ⟨m, hm, e.symm⟩
  · rw [countsAt_modCounts_ne _ _ e] at hj
    exact .inl (mem_counts_of_countsAt hj)

theorem mem_counts_mapCounts {o : Order} {f : Counts → Counts} {n : Counts}
    (h : n ∈ (o.mapCounts f).counts) : ∃ m ∈ o.counts, n = f m := by
  obtain ⟨j, hj⟩ := exists_countsAt h
  rw [countsAt_mapCounts] at hj
  obtain ⟨m, hm, e⟩ := Option.map_eq_some_iff.1 hj
  exact ⟨m, mem_counts_of_countsAt hm, e.symm⟩

/-- The account of one record (R7 to R9): its counters balance, and no print is in flight or delivered where
none can be. -/
structure Fine (o : Order) : Prop where
  balance : o.live = true → ∀ n ∈ o.counts, n.d + n.w + n.p + n.s = n.q + n.c
  fresh : o.started = false → o.sum (·.w) = 0 ∧ o.sum (·.d) = 0
  openFresh : o.state = .opened → o.started = false
  readyLanded : o.state = .ready → o.sum (·.w) = 0

/-- No print of the order is in flight. -/
def Landed (o : Order) : Prop := o.live = true → o.sum (·.w) = 0

/-- The two records stand for the same order with the same prints in flight. -/
structure SameFlight (o r : Order) : Prop where
  live : r.live = o.live
  number : r.number = o.number
  flight : ∀ k, (r.countsAt k).map (·.w) = (o.countsAt k).map (·.w)

theorem SameFlight.refl (o : Order) : SameFlight o o := ⟨rfl, rfl, fun _ => rfl⟩

theorem SameFlight.countsAt {o r : Order} (h : SameFlight o r) {k : Nat} {n : Counts}
    (hk : r.countsAt k = some n) : ∃ m, o.countsAt k = some m ∧ m.w = n.w := by
  have hw := h.flight k
  rw [hk] at hw
  exact Option.map_eq_some_iff.1 hw.symm

theorem SameFlight.landed {o r : Order} (h : SameFlight o r) (hl : Landed o) : Landed r := fun hr =>
  sum_eq_zero.2 fun n hn => by
    obtain ⟨k, hk⟩ := exists_countsAt hn
    obtain ⟨m, hm, e⟩ := h.countsAt hk
    exact e ▸ sum_eq_zero.1 (hl (h.live ▸ hr)) m (mem_counts_of_countsAt hm)

theorem free_fine : Fine Order.free :=
  ⟨fun h => (by cases h), fun _ => ⟨rfl, rfl⟩, fun h => (by cases h), fun h => (by cases h)⟩

theorem free_landed : Landed Order.free := fun _ => rfl

/-- A record in whose state no print is ordered yet has none in flight. -/
theorem Fine.landed_of_opened {o : Order} (h : Fine o) (ho : o.state = .opened) : Landed o :=
  fun _ => (h.fresh (h.openFresh ho)).1

end Order

/-! ### The account of the book -/

/-- Every record's account is in order, and the prints in flight are those of `l`: of each item as many as its
counter says (R8 to R10). -/
structure Accounted (s : State) (l : List OrderItem) : Prop where
  fine : ∀ i, (s.orderAt i).Fine
  inFlight : ∀ i k n, (s.orderAt i).live = true → (s.orderAt i).countsAt k = some n →
    n.w = l.count ⟨(s.orderAt i).number, k⟩
  carried : ∀ x ∈ l, ∃ i, (s.orderAt i).live = true ∧ (s.orderAt i).number = x.number ∧
    ((s.orderAt i).countsAt x.item).isSome = true

namespace Accounted

variable {s t : State} {l l' : List OrderItem}

theorem perm (h : Accounted s l) (hl : l.Perm l') : Accounted s l' where
  fine := h.fine
  inFlight i k n hi hk := by rw [← hl.count_eq]; exact h.inFlight i k n hi hk
  carried x hx := h.carried x (hl.mem_iff.2 hx)

theorem of_records (h : Accounted s l) (e : t.book.records = s.book.records) : Accounted t l := by
  have hat := State.orderAt_congr e
  exact ⟨fun i => hat i ▸ h.fine i, fun i => hat i ▸ h.inFlight i, fun x hx => by
    obtain ⟨i, hi⟩ := h.carried x hx
    exact ⟨i, hat i ▸ hi⟩⟩

theorem of_book (h : Accounted s l) (e : t.book = s.book) : Accounted t l := h.of_records (by rw [e])

/-- A print in flight is one of an order that has prints in flight. -/
theorem owner (h : Accounted s l) {x : OrderItem} (hx : x ∈ l) : ∃ i n, (s.orderAt i).live = true ∧
    (s.orderAt i).number = x.number ∧ (s.orderAt i).countsAt x.item = some n ∧ n.w = l.count x ∧ 0 < n.w := by
  obtain ⟨i, hl, hn, hc⟩ := h.carried x hx
  obtain ⟨n, hn'⟩ := Option.isSome_iff_exists.1 hc
  have hw := h.inFlight i x.item n hl hn'
  rw [hn] at hw
  exact ⟨i, n, hl, hn, hn', hw, hw ▸ List.count_pos_iff.2 hx⟩

/-- The account is kept where records change that have no print in flight before and after, and others keep
their prints in flight; live numbers are distinct afterwards. -/
theorem records (h : Accounted s l) (ht : BookSound t) (hfine : ∀ i, (t.orderAt i).Fine)
    (hrec : ∀ i, Order.SameFlight (s.orderAt i) (t.orderAt i) ∨
      Order.Landed (s.orderAt i) ∧ Order.Landed (t.orderAt i)) : Accounted t l := by
  have hsame : ∀ i n k, (s.orderAt i).live = true → (s.orderAt i).countsAt k = some n → 0 < n.w →
      Order.SameFlight (s.orderAt i) (t.orderAt i) := fun i n k hl hk hw =>
    (hrec i).resolve_right fun hland => by
      have := Order.sum_eq_zero.1 (hland.1 hl) n (Order.mem_counts_of_countsAt hk)
      omega
  refine ⟨hfine, fun i k n hl hk => ?_, fun x hx => ?_⟩
  · rcases hrec i with hs | ⟨hland, hland'⟩
    · obtain ⟨m, hm, e⟩ := hs.countsAt hk
      rw [hs.number, ← e]
      exact h.inFlight i k m (hs.live ▸ hl) hm
    · rw [Order.sum_eq_zero.1 (hland' hl) n (Order.mem_counts_of_countsAt hk), eq_comm,
        List.count_eq_zero]
      intro hx
      obtain ⟨j, m, hj, hn, hm, _, hpos⟩ := h.owner hx
      have hs := hsame j m k hj hm hpos
      have hij : j = i := ht.distinct j i (hs.live ▸ hj) hl (hs.number.trans hn)
      subst hij
      have := Order.sum_eq_zero.1 (hland hj) m (Order.mem_counts_of_countsAt hm)
      omega
  · obtain ⟨i, n, hl, hn, hc, _, hpos⟩ := h.owner hx
    have hs := hsame i n x.item hl hc hpos
    have hw := hs.flight x.item
    rw [hc] at hw
    exact ⟨i, hs.live ▸ hl, hs.number.trans hn, by
      obtain ⟨m, hm, _⟩ := Option.map_eq_some_iff.1 hw
      simp [hm]⟩

/-- The account is kept where every record keeps its prints in flight. -/
theorem sameFlight (h : Accounted s l) (hfine : ∀ i, (t.orderAt i).Fine)
    (hrec : ∀ i, Order.SameFlight (s.orderAt i) (t.orderAt i)) : Accounted t l := by
  refine ⟨hfine, fun i k n hl hk => ?_, fun x hx => ?_⟩
  · obtain ⟨m, hm, e⟩ := (hrec i).countsAt hk
    rw [(hrec i).number, ← e]
    exact h.inFlight i k m ((hrec i).live ▸ hl) hm
  · obtain ⟨i, hl, hn, hc⟩ := h.carried x hx
    have hw := congrArg Option.isSome ((hrec i).flight x.item)
    simp only [Option.isSome_map] at hw
    exact ⟨i, (hrec i).live ▸ hl, (hrec i).number.trans hn, hw ▸ hc⟩

/-- One record changed in what is not its prints in flight. -/
theorem modOrder (h : Accounted s l) (i : Nat) (f : Order → Order)
    (hf : i < s.book.records.length → (f (s.orderAt i)).Fine ∧
      Order.SameFlight (s.orderAt i) (f (s.orderAt i))) : Accounted (s.modOrder i f) l := by
  have hat := State.orderAt_modOrder s i
  refine h.sameFlight (fun j => ?_) (fun j => ?_)
  · rw [hat]
    split
    · next e => exact (hf e.2).1
    · exact h.fine j
  · rw [hat]
    split
    · next e => rw [e.1]; exact (hf e.2).2
    · exact .refl _

/-- One record without a print in flight replaced by another without. -/
theorem replace (h : Accounted s l) (ht : BookSound t) {i : Nat} {f : Order → Order}
    (hrec : t.book.records = modAt f s.book.records i) (hland : Order.Landed (s.orderAt i))
    (hfine : (f (s.orderAt i)).Fine) (hland' : Order.Landed (f (s.orderAt i))) : Accounted t l := by
  have hat : ∀ j, t.orderAt j = _ := fun j =>
    (State.orderAt_congr (s := s.modOrder i f) hrec j).trans (State.orderAt_modOrder s i j f)
  refine h.records ht (fun j => ?_) (fun j => ?_)
  · rw [hat]
    split
    · exact hfine
    · exact h.fine j
  · rw [hat]
    split
    · next e => rw [e.1]; exact .inr ⟨hland, hland'⟩
    · exact .inl (.refl _)

/-- A move of one item's counters that takes its prints in flight from those of `l` to those of `l'`. -/
theorem moves (h : Accounted s l) (hs : BookSound s) {i k : Nat} {n : Counts} {f : Counts → Counts}
    {g : Order → Order} (hlive : (s.orderAt i).live = true) (hn : (s.orderAt i).countsAt k = some n)
    (hg : ∀ o : Order, (g o).live = o.live ∧ (g o).number = o.number ∧ (g o).items = o.items ∧
      (g o).index = o.index)
    (hfine : (g ((s.orderAt i).modCounts k f)).Fine)
    (hcount : l'.count ⟨(s.orderAt i).number, k⟩ = (f n).w)
    (hother : ∀ x : OrderItem, x ≠ ⟨(s.orderAt i).number, k⟩ → l'.count x = l.count x) :
    Accounted (s.modOrder i fun o => g (o.modCounts k f)) l' := by
  have hlt := State.lt_of_live hlive
  have hat := State.orderAt_modOrder s i
  have hcounts : ∀ (o : Order) j, (g o).countsAt j = o.countsAt j := fun o j => by
    obtain ⟨_, _, hitems, hindex⟩ := hg o
    simp only [Order.countsAt, hitems, hindex]
  have hnum : (g ((s.orderAt i).modCounts k f)).number = (s.orderAt i).number :=
    (hg _).2.1.trans (modCounts_rest _ _ _).2.2.2.1
  have hliv : (g ((s.orderAt i).modCounts k f)).live = true := by
    rw [(hg _).1, Order.live, (modCounts_rest _ _ _).1]; exact hlive
  refine ⟨fun j => ?_, fun j m c => ?_, fun x hx => ?_⟩
  · rw [hat]
    split
    · exact hfine
    · exact h.fine j
  · rw [hat]
    split
    · next e =>
      intro _ hc
      rw [hcounts] at hc
      rw [hnum]
      by_cases hm : m = k
      · subst hm
        rw [countsAt_modCounts, hn] at hc
        cases hc
        exact hcount.symm
      · rw [Order.countsAt_modCounts_ne _ _ hm] at hc
        rw [hother _ (by simp [hm])]
        exact h.inFlight i m c hlive hc
    · next e =>
      intro hl hc
      rw [h.inFlight j m c hl hc, hother]
      intro hx
      have hji : j = i := hs.distinct j i hl hlive (congrArg OrderItem.number hx)
      exact e ⟨hji, hlt⟩
  · have hpos := List.count_pos_iff.2 hx
    by_cases hxe : x = ⟨(s.orderAt i).number, k⟩
    · subst hxe
      refine ⟨i, ?_⟩
      rw [hat, if_pos ⟨rfl, hlt⟩, hcounts, countsAt_modCounts, hn]
      exact ⟨hliv, hnum, rfl⟩
    · rw [hother x hxe] at hpos
      obtain ⟨j, hl, hjn, hc⟩ := h.carried x (List.count_pos_iff.1 hpos)
      refine ⟨j, ?_⟩
      rw [hat]
      split
      · next e =>
        obtain ⟨rfl, _⟩ := e
        refine ⟨hliv, hnum.trans hjn, ?_⟩
        rw [hcounts]
        by_cases hm : x.item = k
        · rw [hm, countsAt_modCounts, hn]; rfl
        · rw [Order.countsAt_modCounts_ne _ _ hm]; exact hc
      · exact ⟨hl, hjn, hc⟩

end Accounted

end Sys2Proof.Machine
end


section
/-! The moves of orders keep the prints accounted for: states, holds, counters, and each of the ways a print
in flight ends. -/

set_option Elab.async false

namespace Sys2Proof.Machine

/-! ### One record -/

namespace Order

variable {o : Order}

theorem stateByCounts_cases (o : Order) : State.stateByCounts o = .queued ∨ State.stateByCounts o = .draining ∨
    State.stateByCounts o = .ready ∧ o.sum (·.w) = 0 ∧ o.sum (·.p) = 0 := by
  simp only [State.stateByCounts]
  split
  · exact .inl rfl
  · split
    · exact .inr (.inl rfl)
    · exact .inr (.inr ⟨rfl, by omega, by omega⟩)

/-- A record moved to another live state. -/
theorem Fine.moved (h : Fine o) {st : OrderState} (hlive : o.live = true)
    (hopen : st = .opened → o.started = false) (hready : st = .ready → o.sum (·.w) = 0) :
    Fine { o with state := st } :=
  ⟨fun _ => h.balance hlive, h.fresh, hopen, hready⟩

theorem Fine.byCounts (h : Fine o) (hlive : o.live = true) :
    Fine { o with state := State.stateByCounts o } := by
  refine h.moved hlive (fun e => ?_) (fun e => ?_)
  · rcases stateByCounts_cases o with k | k | ⟨k, _⟩ <;> rw [k] at e <;> cases e
  · rcases stateByCounts_cases o with k | k | ⟨_, hw, _⟩
    · rw [k] at e; cases e
    · rw [k] at e; cases e
    · exact hw

theorem stateByCounts_ne_free (o : Order) : State.stateByCounts o ≠ .free := by
  rcases stateByCounts_cases o with k | k | ⟨k, _⟩ <;> simp [k]

theorem SameFlight.moved (o : Order) {st : OrderState} (hst : st ≠ .free) (hlive : o.live = true) :
    SameFlight o { o with state := st } :=
  ⟨by rw [hlive]; exact bne_iff_ne.2 hst, rfl, fun _ => rfl⟩

theorem modCounts_live (o : Order) (k : Nat) (f : Counts → Counts) : (o.modCounts k f).live = o.live := by
  simp only [live, (modCounts_rest o k f).1]

theorem modCounts_started (o : Order) (k : Nat) (f : Counts → Counts) :
    (o.modCounts k f).started = o.started := by
  simp only [modCounts]; split <;> rfl

theorem Fine.pos_of_inFlight (h : Fine o) {k : Nat} {n : Counts} (hn : o.countsAt k = some n)
    (hw : 0 < n.w) : o.started = true ∧ o.state ≠ .ready := by
  have hne : o.sum (·.w) ≠ 0 := fun e => by
    have := sum_eq_zero.1 e n (mem_counts_of_countsAt hn)
    omega
  constructor
  · cases e : o.started with
    | true => rfl
    | false => exact absurd (h.fresh e).1 hne
  · exact fun e => hne (h.readyLanded e)

/-- A move of one item's counters keeps the record's account where the item had a print in flight, or none of
its prints in flight and delivered move. -/
theorem Fine.modCounts (h : Fine o) {k : Nat} {f : Counts → Counts}
    (hf : ∀ n, o.countsAt k = some n →
      (n.d + n.w + n.p + n.s = n.q + n.c → (f n).d + (f n).w + (f n).p + (f n).s = (f n).q + (f n).c) ∧
      (0 < n.w ∨ (f n).w = n.w ∧ (f n).d = n.d)) : Fine (o.modCounts k f) := by
  have hzero : ∀ g : Counts → Nat, (∀ n, (f n).w = n.w ∧ (f n).d = n.d → g (f n) = g n) →
      o.sum (·.w) = 0 → o.sum g = 0 → (o.modCounts k f).sum g = 0 := fun g hg hw hs =>
    sum_eq_zero.2 fun n hn => by
      rcases mem_counts_modCounts hn with hn | ⟨m, hm, rfl⟩
      · exact sum_eq_zero.1 hs n hn
      · have hm' := mem_counts_of_countsAt hm
        rcases (hf m hm).2 with hpos | hsame
        · have := sum_eq_zero.1 hw m hm'
          omega
        · exact (hg m hsame).trans (sum_eq_zero.1 hs m hm')
  refine ⟨fun hl n hn => ?_, fun hs => ?_, fun ho => ?_, fun hr => ?_⟩
  · rw [modCounts_live] at hl
    rcases mem_counts_modCounts hn with hn | ⟨m, hm, rfl⟩
    · exact h.balance hl n hn
    · exact (hf m hm).1 (h.balance hl m (mem_counts_of_countsAt hm))
  · rw [modCounts_started] at hs
    obtain ⟨hw, hd⟩ := h.fresh hs
    exact ⟨hzero _ (fun _ e => e.1) hw hw, hzero _ (fun _ e => e.2) hw hd⟩
  · rw [modCounts_started]
    exact h.openFresh ((modCounts_rest o k f).1 ▸ ho)
  · have hw := h.readyLanded ((modCounts_rest o k f).1 ▸ hr)
    exact hzero _ (fun _ e => e.1) hw hw

/-- A move that leaves the prints in flight of its item leaves those of the order. -/
theorem SameFlight.modCounts (o : Order) (k : Nat) {f : Counts → Counts} (hf : ∀ n, (f n).w = n.w) :
    SameFlight o (o.modCounts k f) := by
  refine ⟨modCounts_live o k f, (modCounts_rest o k f).2.2.2.1, fun j => ?_⟩
  by_cases e : j = k
  · rw [e, countsAt_modCounts]
    cases o.countsAt k <;> simp [hf]
  · rw [countsAt_modCounts_ne _ _ e]

theorem mapCounts_live (o : Order) (f : Counts → Counts) : (o.mapCounts f).live = o.live := rfl

/-- A change of all counters that leaves the prints in flight and delivered. -/
theorem Fine.mapCounts (h : Fine o) {f : Counts → Counts} (hw : ∀ n, (f n).w = n.w) (hd : ∀ n, (f n).d = n.d)
    (hf : ∀ n, n.d + n.w + n.p + n.s = n.q + n.c →
      (f n).d + (f n).w + (f n).p + (f n).s = (f n).q + (f n).c) : Fine (o.mapCounts f) := by
  have hzero : ∀ g : Counts → Nat, (∀ n, g (f n) = g n) → o.sum g = 0 → (o.mapCounts f).sum g = 0 :=
    fun g hg hs => sum_eq_zero.2 fun n hn => by
      obtain ⟨m, hm, rfl⟩ := mem_counts_mapCounts hn
      exact (hg m).trans (sum_eq_zero.1 hs m hm)
  refine ⟨fun hl n hn => ?_, fun hs => ?_, h.openFresh, fun hr => hzero _ hw (h.readyLanded hr)⟩
  · obtain ⟨m, hm, rfl⟩ := mem_counts_mapCounts hn
    exact hf m (h.balance hl m hm)
  · exact ⟨hzero _ hw (h.fresh hs).1, hzero _ hd (h.fresh hs).2⟩

theorem SameFlight.mapCounts (o : Order) {f : Counts → Counts} (hf : ∀ n, (f n).w = n.w) :
    SameFlight o (o.mapCounts f) := by
  refine ⟨rfl, rfl, fun k => ?_⟩
  rw [countsAt_mapCounts]
  cases o.countsAt k <;> simp [hf]

/-- What a release removes from a record leaves its prints. -/
theorem Fine.release (h : Fine o) (p : Port) : Fine (o.release p) := by
  simp only [Order.release]
  split
  · exact ⟨h.balance, h.fresh, h.openFresh, h.readyLanded⟩
  · have hholds : Fine { o with holds.operator := false, holds.fault := false } :=
      ⟨h.balance, h.fresh, h.openFresh, h.readyLanded⟩
    exact hholds.mapCounts (fun _ => rfl) (fun _ => rfl) fun _ hb => hb

theorem SameFlight.release (o : Order) (p : Port) : SameFlight o (o.release p) := by
  simp only [Order.release]
  split
  · exact ⟨rfl, rfl, fun _ => rfl⟩
  · have hmap := SameFlight.mapCounts { o with holds.operator := false, holds.fault := false }
      (f := fun n => { n with spoil := if 3 < n.spoil then 0 else n.spoil }) fun _ => rfl
    exact ⟨hmap.live, hmap.number, hmap.flight⟩

end Order

/-! ### States, holds and the return to FREE -/

namespace State

theorem freeOrder_records (s : State) (i : Nat) :
    (s.freeOrder i).book.records = modAt (fun _ => Order.free) s.book.records i := by
  show modAt _ (s.setOrderState i .free).book.records i = _
  rw [setOrderState_records, modAt_modAt]

/-- A state change that a condition guards, or the state as it is. -/
theorem addHold_cases (s : State) (i : Nat) (r : Hold) : s.addHold i r = s ∨
    s.addHold i r = s.modOrder i (fun o => { o with holds := o.holds.add r }) ∨
    (s.orderAt i).live = true ∧
      s.addHold i r = (s.modOrder i fun o => { o with holds := o.holds.add r }).setOrderState i .held := by
  simp only [addHold]
  split
  · exact .inl rfl
  · split
    · next h =>
      refine .inr (.inr ⟨?_, rfl⟩)
      have hst : ((s.modOrder i fun o => { o with holds := o.holds.add r }).orderAt i).state =
          (s.orderAt i).state := by
        rw [orderAt_modOrder]; split <;> rfl
      simp only [Order.live, bne_iff_ne]
      intro e
      simp [holdActs, hst, e] at h
    · exact .inr (.inl rfl)

theorem leaveHeld_cases (s : State) (i : Nat) : s.leaveHeld i = s ∨ (s.orderAt i).state = .held ∧
    s.leaveHeld i = s.setOrderState i (stateByCounts (s.orderAt i)) := by
  simp only [leaveHeld]
  split
  · next h =>
    simp only [Bool.and_eq_true, beq_iff_eq] at h
    exact .inr ⟨h.1, rfl⟩
  · exact .inl rfl

end State

namespace Accounted

variable {s : State} {l : List OrderItem}

theorem setOrderState (h : Accounted s l) {i : Nat} {st : OrderState} (hst : st ≠ .free)
    (hlive : (s.orderAt i).live = true) (hfine : Order.Fine { s.orderAt i with state := st }) :
    Accounted (s.setOrderState i st) l :=
  (h.modOrder i (fun o => { o with state := st }) fun _ => ⟨hfine, .moved _ hst hlive⟩).of_records
    (State.setOrderState_records s i st)

/-- A state that needs no print landed and is not OPEN. -/
theorem enters (h : Accounted s l) {i : Nat} {st : OrderState} (hst : st ≠ .free) (hopen : st ≠ .opened)
    (hready : st = .ready → (s.orderAt i).sum (·.w) = 0) (hlive : (s.orderAt i).live = true) :
    Accounted (s.setOrderState i st) l :=
  h.setOrderState hst hlive ((h.fine i).moved hlive (fun e => absurd e hopen) hready)

theorem byCounts (h : Accounted s l) {i : Nat} (hlive : (s.orderAt i).live = true) :
    Accounted (s.setOrderState i (State.stateByCounts (s.orderAt i))) l :=
  h.setOrderState (Order.stateByCounts_ne_free _) hlive ((h.fine i).byCounts hlive)

theorem holds (h : Accounted s l) (i : Nat) (f : Order → Holds) :
    Accounted (s.modOrder i fun o => { o with holds := f o }) l :=
  h.modOrder i _ fun _ => ⟨⟨(h.fine i).balance, (h.fine i).fresh, (h.fine i).openFresh,
    (h.fine i).readyLanded⟩, ⟨rfl, rfl, fun _ => rfl⟩⟩

theorem addHold (h : Accounted s l) (i : Nat) (r : Hold) : Accounted (s.addHold i r) l := by
  rcases State.addHold_cases s i r with e | e | ⟨hl, e⟩ <;> rw [e]
  · exact h
  · exact h.holds i fun o => o.holds.add r
  · refine (h.holds i fun o => o.holds.add r).enters (by simp) (by simp) (by simp) ?_
    rw [State.orderAt_modOrder]
    split <;> exact hl

theorem leaveHeld (h : Accounted s l) (i : Nat) : Accounted (s.leaveHeld i) l := by
  rcases State.leaveHeld_cases s i with e | ⟨hst, e⟩ <;> rw [e]
  · exact h
  · exact h.byCounts (State.live_of_state hst (by simp))

theorem releasePaper1 (h : Accounted s l) (i : Nat) : Accounted (s.releasePaper1 i) l := by
  simp only [State.releasePaper1]
  split
  · exact (h.holds i fun o => { o.holds with paper := false }).leaveHeld i
  · exact h

theorem freeOrder (h : Accounted s l) (hs : BookSound s) {i : Nat} (hland : Order.Landed (s.orderAt i)) :
    Accounted (s.freeOrder i) l :=
  h.replace (State.freeOrder_sound hs i) (State.freeOrder_records s i) hland Order.free_fine
    Order.free_landed

theorem afterMove (h : Accounted s l) (hs : BookSound s) (i : Nat) : Accounted (s.afterMove i) l := by
  simp only [State.afterMove]
  split
  · next hst =>
    split
    · next hsum =>
      simp only [Bool.and_eq_true, decide_eq_true_eq] at hsum
      exact h.enters (by simp) (by simp) (fun _ => hsum.1) (State.live_of_state hst (by simp))
    · exact h
  · split
    · next hsum => exact h.freeOrder hs fun _ => hsum
    · exact h
  · exact h

/-! ### The ways a print in flight ends -/

/-- A print in flight is taken out of it: a move of its item's counters with one w less. -/
theorem lands {x : OrderItem} (h : Accounted s (x :: l)) (hs : BookSound s) {i : Nat}
    (hi : s.findLive x.number = some i) {f : Counts → Counts} (hw : ∀ n, (f n).w = n.w - 1)
    (hf : ∀ n, 0 < n.w → n.d + n.w + n.p + n.s = n.q + n.c →
      (f n).d + (f n).w + (f n).p + (f n).s = (f n).q + (f n).c) :
    Accounted (s.moveCounts i x.item f) l := by
  obtain ⟨hlive, hnum⟩ := State.findLive_some hi
  obtain ⟨j, n, hjl, hjn, hn, hcount, hpos⟩ := h.owner (List.mem_cons_self ..)
  have hij : j = i := hs.distinct j i hjl hlive (hjn.trans hnum.symm)
  subst hij
  have hx : x = ⟨(s.orderAt j).number, x.item⟩ := by rw [hjn]
  refine h.moves (g := id) hs hlive hn (fun _ => ⟨rfl, rfl, rfl, rfl⟩) ?_ ?_ ?_
  · refine (h.fine j).modCounts fun m hm => ?_
    rw [hn] at hm
    cases hm
    exact ⟨hf n hpos, .inl hpos⟩
  · rw [← hx, hw, hcount, List.count_cons_self, Nat.add_sub_cancel]
  · intro y hy
    rw [List.count_cons_of_ne]
    exact fun e => hy (e ▸ hx)

theorem discard {x : OrderItem} (h : Accounted s (x :: l)) (hs : BookSound s) {i : Nat}
    (hi : s.findLive x.number = some i) : Accounted (s.discard i x.item) l :=
  (h.lands hs hi (fun _ => rfl) fun n _ hb => by dsimp only; omega).afterMove
    (State.moveCounts_sound hs _ _ _) i

theorem spoilLive {x : OrderItem} (h : Accounted s (x :: l)) (hs : BookSound s) {i : Nat}
    (hi : s.findLive x.number = some i) : Accounted (s.spoilLive i x.item) l := by
  have hmove := h.lands hs hi
    (f := fun n => { n with w := n.w - 1, p := n.p + 1, spoil := min 4 (n.spoil + 1) })
    (fun _ => rfl) fun n _ hb => by dsimp only; omega
  simp only [State.spoilLive]
  split
  · exact hmove.addHold i .fault
  · split
    · next hst => exact hmove.enters (by simp) (by simp) (by simp) (State.live_of_state (by simpa using hst)
        (by simp))
    · exact hmove

theorem spoil {x : OrderItem} (h : Accounted s (x :: l)) (hs : BookSound s) : Accounted (s.spoil x) l := by
  simp only [State.spoil]
  split
  · next hnone =>
    obtain ⟨i, hl, hn, _⟩ := h.carried x (List.mem_cons_self ..)
    exact absurd hn (State.findLive_none hnone i hl)
  · next i hi =>
    split
    · exact h.discard hs hi
    · exact h.spoilLive hs hi

theorem spoil? {x : Option OrderItem} (h : Accounted s (x.toList ++ l)) (hs : BookSound s) :
    Accounted (s.spoil? x) l := by
  cases x with
  | none => exact h
  | some x => exact h.spoil hs

theorem spoils : ∀ (xs : List OrderItem) {s : State}, Accounted s (xs ++ l) → BookSound s →
    Accounted (xs.foldl State.spoil s) l
  | [], _, h, _ => h
  | x :: xs, _, h, hs => spoils xs (h.spoil hs) (State.spoil_sound hs x)

theorem deliver {x : OrderItem} (h : Accounted s (x :: l)) (hs : BookSound s) {i : Nat}
    (hi : s.findLive x.number = some i) (b : Nat) (inspect : Bool) :
    Accounted (s.deliver i x.item b inspect) l := by
  have hbook : ∀ t : State, t.book = s.book → Accounted t (x :: l) ∧ BookSound t ∧
      t.findLive x.number = some i := fun t e =>
    ⟨h.of_book e, hs.of_book e, by rw [State.findLive, e]; exact hi⟩
  obtain ⟨h', hs', hi'⟩ := hbook (({ s with sorter := s.sorter.modBins State.fill [b] } : State).steer b) rfl
  have hmove := h'.lands hs' hi' (f := fun n => { n with w := n.w - 1, d := n.d + 1 }) (fun _ => rfl)
    fun n _ hb => by dsimp only; omega
  have hsm := State.moveCounts_sound hs' i x.item fun n => { n with w := n.w - 1, d := n.d + 1 }
  simp only [State.deliver]
  split
  · refine Accounted.afterMove ?_ ?_ i
    · refine Accounted.of_book (Accounted.modOrder hmove i (fun o => { o with inspect := true }) fun _ =>
        ⟨⟨(hmove.fine i).balance, (hmove.fine i).fresh, (hmove.fine i).openFresh,
          (hmove.fine i).readyLanded⟩, ⟨rfl, rfl, fun _ => rfl⟩⟩) rfl
    · exact (hsm.modOrder i (fun o => { o with inspect := true }) fun _ => rfl).of_book rfl
  · exact hmove.afterMove hsm i

theorem sortSheet {x : Sheet} (h : Accounted s (x.order.toList ++ l)) (hs : BookSound s) :
    Accounted (s.sortSheet x) l := by
  have hreject : s.rejectSheet.book = s.book := State.rejectSheet_book s
  simp only [State.sortSheet]
  split
  · next k hk =>
    rw [hk] at h
    simp only [State.sortPrint]
    split
    · next hnone =>
      obtain ⟨i, hl, hn, _⟩ := h.carried k (List.mem_cons_self ..)
      exact absurd hn (State.findLive_none hnone i hl)
    · next i hi =>
      have hi' : s.rejectSheet.findLive k.number = some i := by rw [State.findLive, hreject]; exact hi
      have hdiscard : Accounted (s.rejectSheet.discard i k.item) l :=
        (h.of_book hreject).discard (hs.of_book hreject) hi'
      split
      · exact hdiscard
      · split
        · exact h.deliver hs hi _ _
        · exact hdiscard
  · next hk =>
    rw [hk] at h
    split
    · exact (h.of_book hreject).of_book rfl
    · exact h.of_book hreject

/-! ### The requests -/

/-- A record whose prints in flight and delivered are none takes the place of such a record. -/
theorem opened_fine {o : Order} (hst : o.state ≠ .ready) (hstart : o.started = false)
    (hn : ∀ n ∈ o.counts, n.w = 0 ∧ n.d = 0 ∧ n.p + n.s = n.q + n.c) : o.Fine where
  balance _ n h := by obtain ⟨hw, hd, hb⟩ := hn n h; omega
  fresh _ := ⟨Order.sum_eq_zero.2 fun n h => (hn n h).1, Order.sum_eq_zero.2 fun n h => (hn n h).2.1⟩
  openFresh _ := hstart
  readyLanded e := absurd e hst

/-- The counters of an order that is not started: nothing in flight or delivered, and the rest balances. -/
theorem fresh_counts {o : Order} (h : o.Fine) (hl : o.live = true) (hs : o.started = false) :
    ∀ n ∈ o.counts, n.w = 0 ∧ n.d = 0 ∧ n.p + n.s = n.q + n.c := fun n hn => by
  obtain ⟨hw, hd⟩ := h.fresh hs
  have hb := h.balance hl n hn
  have hw := Order.sum_eq_zero.1 hw n hn
  have hd := Order.sum_eq_zero.1 hd n hn
  exact ⟨hw, hd, by omega⟩

theorem landed_of_counts {o : Order} (hn : ∀ n ∈ o.counts, n.w = 0 ∧ n.d = 0 ∧ n.p + n.s = n.q + n.c) :
    o.Landed := fun _ => Order.sum_eq_zero.2 fun n h => (hn n h).1

/-- An edit of an OPEN record that leaves the counters it keeps as they are, or new. -/
theorem edit (h : Accounted s l) {i : Nat} {f : Order → Order} (ht : BookSound (s.modOrder i f))
    (hst : (s.orderAt i).state = .opened) (hready : (f (s.orderAt i)).state ≠ .ready)
    (hstart : (f (s.orderAt i)).started = (s.orderAt i).started)
    (hn : ∀ n ∈ (f (s.orderAt i)).counts, n ∈ (s.orderAt i).counts ∨ ∃ q, n = Counts.new q) :
    Accounted (s.modOrder i f) l := by
  have hfine := h.fine i
  have hs := hfine.openFresh hst
  have hc := fresh_counts hfine (State.live_of_state hst (by simp)) hs
  have hc' : ∀ n ∈ (f (s.orderAt i)).counts, n.w = 0 ∧ n.d = 0 ∧ n.p + n.s = n.q + n.c := fun n hm => by
    rcases hn n hm with hm | ⟨q, rfl⟩
    · exact hc n hm
    · exact ⟨rfl, rfl, rfl⟩
  exact h.replace ht rfl (hfine.landed_of_opened hst) (opened_fine hready (hstart.trans hs) hc')
    (landed_of_counts hc')

theorem mem_counts_items {o : Order} {xs : List Item} {n : Counts}
    (h : n ∈ ({ o with items := xs } : Order).counts) : (∃ x ∈ xs, n = x.n) ∨ n ∈ (o.index.map (·.n)).toList := by
  simp only [Order.counts, List.mem_append, List.mem_map] at h
  rcases h with ⟨x, hx, rfl⟩ | h
  · exact .inl ⟨x, hx, rfl⟩
  · exact .inr h

theorem mem_counts_of_item {o : Order} {x : Item} (h : x ∈ o.items) : x.n ∈ o.counts :=
  List.mem_append_left _ (List.mem_map_of_mem h)

theorem removeSlotItems (h : Accounted s l) (hs : BookSound s) (k : Nat) :
    Accounted (s.removeSlotItems k) l := by
  have hat : ∀ i, (s.removeSlotItems k).orderAt i =
      if (s.orderAt i).state == .opened then (s.orderAt i).dropSlot k else s.orderAt i := fun i => by
    simp only [State.removeSlotItems, State.orderAt, List.getD_eq_getElem?_getD, List.getElem?_map]
    cases s.book.records[i]? <;> rfl
  have hopen : ∀ i, (s.orderAt i).state = .opened → ∀ n ∈ ((s.orderAt i).dropSlot k).counts,
      n.w = 0 ∧ n.d = 0 ∧ n.p + n.s = n.q + n.c := fun i hst n hn => by
    have hc := fresh_counts (h.fine i) (State.live_of_state hst (by simp)) ((h.fine i).openFresh hst)
    rcases mem_counts_items hn with ⟨x, hx, rfl⟩ | hn
    · exact hc _ (mem_counts_of_item (List.mem_filter.1 hx).1)
    · exact hc n (List.mem_append_right _ hn)
  refine h.records (State.removeSlotItems_sound hs k) (fun i => ?_) (fun i => ?_)
  · rw [hat]
    split
    · next hst =>
      have hst : (s.orderAt i).state = .opened := by simpa using hst
      exact opened_fine (by simp [Order.dropSlot, hst]) ((h.fine i).openFresh hst) (hopen i hst)
    · exact h.fine i
  · rw [hat]
    split
    · next hst =>
      have hst : (s.orderAt i).state = .opened := by simpa using hst
      exact .inr ⟨(h.fine i).landed_of_opened hst, landed_of_counts (hopen i hst)⟩
    · exact .inl (.refl _)

theorem withdraw (h : Accounted s l) (hs : BookSound s) {i : Nat} (queued : (s.orderAt i).state = .queued)
    (fresh : (s.orderAt i).started = false) : Accounted (s.withdraw i) l := by
  have hc := fresh_counts (h.fine i) (State.live_of_state queued (by simp)) fresh
  have hcounts : (State.withdrawn (s.orderAt i)).counts = (s.orderAt i).counts := by
    simp only [Order.counts, State.withdrawn, Option.map_map]
    rfl
  refine h.replace (State.withdraw_sound hs queued) (State.withdraw_records s i) (landed_of_counts hc)
    (opened_fine (by simp [State.withdrawn]) fresh ?_) (landed_of_counts ?_) <;>
  · rw [hcounts]; exact hc

theorem commits (h : Accounted s l) {i : Nat} (opened : (s.orderAt i).state = .opened)
    (pre : Bool) : Accounted (({ s.modOrder i (fun _ => s.committed (s.orderAt i) pre) with
      book.sequence := s.book.sequence + 1 } : State).setOrderState i .queued) l := by
  have hl := State.live_of_state opened (by simp)
  have hfine := h.fine i
  have hcounts : (s.committed (s.orderAt i) pre).counts = (s.orderAt i).counts := by
    simp only [Order.counts, State.committed, Option.map_map]
    rfl
  have hsum : ∀ f, (s.committed (s.orderAt i) pre).sum f = (s.orderAt i).sum f := fun f => by
    simp only [Order.sum, hcounts]
  have hmod : Accounted (s.modOrder i fun _ => s.committed (s.orderAt i) pre) l := by
    refine h.modOrder i _ fun _ => ⟨⟨fun _ => ?_, ?_, hfine.openFresh, ?_⟩, ⟨rfl, rfl, fun k => ?_⟩⟩
    · rw [hcounts]; exact hfine.balance hl
    · rw [hsum, hsum]; exact hfine.fresh
    · rw [hsum]; exact hfine.readyLanded
    · simp only [Order.countsAt, State.committed]
      split
      · cases (s.orderAt i).index <;> rfl
      · rfl
  have hseq : Accounted { s.modOrder i (fun _ => s.committed (s.orderAt i) pre) with
      book.sequence := s.book.sequence + 1 } l := hmod.of_records rfl
  refine hseq.enters (by simp) (by simp) (by simp) ?_
  show ((s.modOrder i _).orderAt i).live = true
  rw [State.modOrder_same s _ (State.lt_of_live hl)]
  exact hl

theorem moveKeeping (h : Accounted s l) (i k : Nat) {f : Counts → Counts} (hw : ∀ n, (f n).w = n.w)
    (hd : ∀ n, (f n).d = n.d) (hf : ∀ n, n.d + n.w + n.p + n.s = n.q + n.c →
      (f n).d + (f n).w + (f n).p + (f n).s = (f n).q + (f n).c) : Accounted (s.moveCounts i k f) l :=
  h.modOrder i _ fun _ => ⟨(h.fine i).modCounts fun n _ => ⟨hf n, .inr ⟨hw n, hd n⟩⟩, .modCounts _ k hw⟩

theorem reprints (h : Accounted s l) {i : Nat} (ready : (s.orderAt i).state = .ready) (k n : Nat)
    (bs : List Nat) : Accounted (((s.moveCounts i k fun m =>
      { m with c := m.c + n, p := m.p + n }).reopenBins bs).setOrderState i .queued) l := by
  have hmove := h.moveKeeping i k (f := fun m => { m with c := m.c + n, p := m.p + n }) (fun _ => rfl)
    (fun _ => rfl) fun m hb => by dsimp only; omega
  have hl := State.live_of_state ready (by simp)
  have hbins : Accounted ((s.moveCounts i k fun m => { m with c := m.c + n, p := m.p + n }).reopenBins bs) l :=
    hmove.of_book rfl
  refine hbins.enters (by simp) (by simp) (by simp) ?_
  show ((s.modOrder i _).orderAt i).live = true
  rw [State.modOrder_same s _ (State.lt_of_live hl), Order.modCounts_live]
  exact hl

theorem afterSkip (h : Accounted s l) (i : Nat) : Accounted (s.afterSkip i) l := by
  simp only [State.afterSkip]
  split
  · exact h
  · split
    · next hst => exact h.byCounts (State.live_of_state hst (by simp))
    · next hst =>
      have hl := State.live_of_state hst (by simp)
      split
      · exact h.enters (by simp) (by simp) (by simp) hl
      · exact h.byCounts hl
    · exact h

theorem skips (h : Accounted s l) (i k : Nat) :
    Accounted ((s.moveCounts i k fun m => { m with p := 0, s := m.s + m.p }).afterSkip i) l :=
  (h.moveKeeping i k (f := fun m => { m with p := 0, s := m.s + m.p }) (fun _ => rfl) (fun _ => rfl)
    fun m hb => by dsimp only; omega).afterSkip i

/-- What ORDER_CANCEL writes in a record before it becomes VOID or FREE (R17). -/
def cancelled (o : Order) : Order :=
  { o.mapCounts fun n => { n with p := 0, s := n.s + n.p } with
    holds := Holds.none, bins := [], paid := none, settled := none }

theorem cancelled_fine {o : Order} (h : o.Fine) : (cancelled o).Fine := by
  have hmap := h.mapCounts (f := fun n => { n with p := 0, s := n.s + n.p }) (fun _ => rfl) (fun _ => rfl)
    fun n hb => by dsimp only; omega
  exact ⟨hmap.balance, hmap.fresh, hmap.openFresh, hmap.readyLanded⟩

theorem cancelled_sameFlight (o : Order) : o.SameFlight (cancelled o) := by
  have hmap := Order.SameFlight.mapCounts o (f := fun n => { n with p := 0, s := n.s + n.p }) fun _ => rfl
  exact ⟨hmap.live, hmap.number, hmap.flight⟩

theorem cancel (h : Accounted s l) (hs : BookSound s) {i : Nat}
    (committed : (s.orderAt i).committedState = true) : Accounted (s.cancel i) l := by
  have hl := State.live_of_committed committed
  have hat : (s.giveBinList (s.orderAt i).bins).orderAt i = s.orderAt i :=
    State.orderAt_congr (by rw [State.giveBinList_book]) i
  have hmod : Accounted ((s.giveBinList (s.orderAt i).bins).modOrder i cancelled) l := by
    refine (h.of_book (State.giveBinList_book _ _)).modOrder i _ fun _ => ?_
    rw [hat]
    exact ⟨cancelled_fine (h.fine i), cancelled_sameFlight _⟩
  have hbook : BookSound ((s.giveBinList (s.orderAt i).bins).modOrder i cancelled) :=
    (hs.of_book (State.giveBinList_book _ _)).modOrder i _ fun _ => rfl
  have hnow : ((s.giveBinList (s.orderAt i).bins).modOrder i cancelled).orderAt i =
      cancelled (s.orderAt i) := by
    rw [State.modOrder_same _ _ (by rw [State.giveBinList_book]; exact State.lt_of_live hl), hat]
  simp only [State.cancel]
  split
  · next hw =>
    refine hmod.freeOrder hbook ?_
    rw [hnow]
    exact (cancelled_sameFlight _).landed fun _ => hw
  · exact hmod.enters (by simp) (by simp) (by simp) (by rw [hnow]; exact hl)

theorem resetActive (h : Accounted s l) : Accounted s.resetActive l := by
  simp only [State.resetActive]
  split
  · exact h
  · next i hi =>
    have hl := State.live_of_state (State.current_some hi) (by simp)
    split
    · exact h.byCounts hl
    · exact h.enters (by simp) (by simp) (by simp) hl

/-- The counters of a release: the spoil counts alone change (R21). -/
theorem release (h : Accounted s l) (i : Nat) (p : Port) :
    Accounted ((s.modOrder i fun o => o.release p).leaveHeld i) l :=
  (h.modOrder i _ fun _ => ⟨(h.fine i).release p, .release _ p⟩).leaveHeld i

/-! ### A frame start -/

theorem startPrint (h : Accounted s l) (hs : BookSound s) {t : Target} {n : Counts}
    (active : (s.orderAt t.record).state = .active) (hn : (s.orderAt t.record).countsAt t.item = some n)
    (hp : 0 < n.p) : Accounted (s.startPrint t) (⟨(s.orderAt t.record).number, t.item⟩ :: l) := by
  have hl := State.live_of_state active (by simp)
  have hmove : Accounted (s.modOrder t.record fun o =>
      { o.modCounts t.item fun n => { n with p := n.p - 1, w := n.w + 1 } with started := true })
      (⟨(s.orderAt t.record).number, t.item⟩ :: l) := by
    refine h.moves (g := fun o => { o with started := true }) hs hl hn (fun _ => ⟨rfl, rfl, rfl, rfl⟩) ?_ ?_ ?_
    · have hst := (modCounts_rest (s.orderAt t.record) t.item fun n =>
        { n with p := n.p - 1, w := n.w + 1 }).1.trans active
      refine ⟨fun _ m hm => ?_, fun e => (by cases e), fun e => ?_, fun e => ?_⟩
      · rcases Order.mem_counts_modCounts hm with hm | ⟨m', hm', rfl⟩
        · exact (h.fine _).balance hl m hm
        · have := (h.fine _).balance hl m' (Order.mem_counts_of_countsAt hm')
          rw [hn] at hm'
          cases hm'
          dsimp only
          omega
      · exact absurd (e.symm.trans hst) (by simp)
      · exact absurd (e.symm.trans hst) (by simp)
    · rw [List.count_cons_self, h.inFlight _ _ n hl hn]
    · exact fun x hx => List.count_cons_of_ne (Ne.symm hx)
  simp only [State.startPrint]
  split
  · refine hmove.enters (by simp) (by simp) (by simp) ?_
    rw [State.modOrder_same s _ (State.lt_of_live hl)]
    exact (Order.modCounts_live _ _ _).trans hl
  · exact hmove

end Accounted

end Sys2Proof.Machine
end


section
/-! The web's records against the frame being written, and the invariant of the prints under each act. -/

set_option Elab.async false

namespace Sys2Proof.Machine

/-- Only PRINT and INDEX records carry a print, and the last record stands for the frame being written (R71). -/
structure WebSound (s : State) : Prop where
  kinds : ∀ r ∈ s.cutter.web, r.order.isSome = true → r.kind = .print ∨ r.kind = .index
  written : ∀ c, s.engine.work = .frame c → ∃ r, s.cutter.web.getLast? = some r ∧ r.kind ≠ .closing ∧
    r.order = c.target.map fun t => ⟨t.number, t.item⟩

theorem countsSound_iff (s : State) : CountsSound s ↔ Accounted s s.carriers ∧ WebSound s :=
  ⟨fun h => ⟨⟨fun i => ⟨h.balance i, h.fresh i, h.openFresh i, h.readyLanded i⟩, h.inFlight, h.carried⟩,
      h.kinds, h.written⟩,
    fun ⟨h, k⟩ => ⟨fun i => (h.fine i).balance, h.inFlight, h.carried, k.kinds, k.written,
      fun i => (h.fine i).fresh, fun i => (h.fine i).openFresh, fun i => (h.fine i).readyLanded⟩⟩

/-- `t` carries the prints that `s` does, and the frame being written is the same or has ended. -/
structure SameWay (s t : State) : Prop where
  web : t.cutter.web.map WebRecord.load = s.cutter.web.map WebRecord.load
  sheets : t.monitor.sheets.map (·.order) = s.monitor.sheets.map (·.order)
  work : ∀ f, t.engine.work = .frame f → ∃ g, s.engine.work = .frame g ∧ f.target = g.target

theorem Aside.sameWay {s t : State} (h : Aside s t) : SameWay s t :=
  ⟨h.web, h.sheets, fun f hf => by obtain ⟨g, hg, e⟩ := h.work f hf; exact ⟨g, hg, by rw [e]⟩⟩

namespace SameWay

variable {s t u : State}

theorem plain (web : t.cutter = s.cutter) (sheets : t.monitor = s.monitor) (work : t.engine = s.engine) :
    SameWay s t :=
  ⟨by rw [web], by rw [sheets], fun f hf => ⟨f, work ▸ hf, rfl⟩⟩

theorem of_orderFrame (h : OrderFrame s t) : SameWay s t := by
  rw [h]; exact .plain rfl rfl rfl

theorem trans (h : SameWay s t) (k : SameWay t u) : SameWay s u :=
  ⟨k.web.trans h.web, k.sheets.trans h.sheets, fun f hf => by
    obtain ⟨g, hg, e⟩ := k.work f hf
    obtain ⟨g', hg', e'⟩ := h.work g hg
    exact ⟨g', hg', e.trans e'⟩⟩

/-- The first of two, where the state between them is read off the second. -/
theorem after (k : SameWay t u) (h : SameWay s t) : SameWay s u := h.trans k

theorem carriers (h : SameWay s t) : t.carriers = s.carriers := by
  have hweb : ∀ l : List WebRecord, l.filterMap (·.order) = (l.map WebRecord.load).filterMap (·.2) := fun l => by
    rw [List.filterMap_map]; rfl
  have hsheets : ∀ l : List Sheet, l.filterMap (·.order) = (l.map (·.order)).filterMap id := fun l => by
    rw [List.filterMap_map]; rfl
  simp only [State.carriers, hweb, hsheets, h.web, h.sheets]

theorem webSound (h : SameWay s t) (hs : WebSound s) : WebSound t := by
  refine ⟨fun r hr ho => ?_, fun c hc => ?_⟩
  · have hm : r.load ∈ s.cutter.web.map WebRecord.load := h.web ▸ List.mem_map_of_mem hr
    obtain ⟨x, hx, e⟩ := List.mem_map.1 hm
    have hk : x.kind = r.kind := congrArg (·.1) e
    have ho' : x.order = r.order := congrArg (·.2) e
    exact hk ▸ hs.kinds x hx (ho' ▸ ho)
  · obtain ⟨g, hg, e⟩ := h.work c hc
    obtain ⟨r, hr, hkind, horder⟩ := hs.written g hg
    have hl : (t.cutter.web.map WebRecord.load).getLast? = some r.load := by
      rw [h.web, List.getLast?_map, hr]; rfl
    rw [List.getLast?_map] at hl
    obtain ⟨x, hx, e'⟩ := Option.map_eq_some_iff.1 hl
    have hk : x.kind = r.kind := congrArg (·.1) e'
    have ho : x.order = r.order := congrArg (·.2) e'
    exact ⟨x, hx, hk ▸ hkind, by rw [ho, horder, e]⟩

end SameWay

/-- A move of orders alone keeps the invariant when it keeps the account. -/
theorem CountsSound.of_sameWay {s t : State} (h : CountsSound s) (k : SameWay s t)
    (hacc : Accounted t s.carriers) : CountsSound t :=
  (countsSound_iff t).2 ⟨k.carriers ▸ hacc, k.webSound ((countsSound_iff s).1 h).2⟩

theorem CountsSound.of_aside {s t : State} (h : CountsSound s) (k : Aside s t) : CountsSound t :=
  h.of_sameWay k.sameWay (((countsSound_iff s).1 h).1.of_book k.book)

/-! ### Frames of the moves -/

namespace State

theorem rejectSheet_sameWay (s : State) : SameWay s s.rejectSheet := (rejectSheet_aside s).sameWay

theorem deliver_sameWay (s : State) (i k b : Nat) (inspect : Bool) :
    SameWay s (s.deliver i k b inspect) := by
  simp only [deliver]
  split
  · exact (SameWay.of_orderFrame (afterMove_frame _ _)).after (.plain rfl rfl rfl)
  · exact (SameWay.of_orderFrame (afterMove_frame _ _)).after (.plain rfl rfl rfl)

theorem sortSheet_sameWay (s : State) (x : Sheet) : SameWay s (s.sortSheet x) := by
  have hdiscard : ∀ i k, SameWay s (s.rejectSheet.discard i k) := fun i k =>
    (rejectSheet_sameWay s).trans (.of_orderFrame (discard_frame _ _ _))
  simp only [sortSheet, sortPrint]
  split
  · split
    · exact rejectSheet_sameWay s
    · split
      · exact hdiscard _ _
      · split
        · exact deliver_sameWay s _ _ _ _
        · exact hdiscard _ _
  · split
    · exact (rejectSheet_sameWay s).trans (raise_aside _ _).sameWay
    · exact rejectSheet_sameWay s

theorem cancel_sameWay (s : State) (i : Nat) : SameWay s (s.cancel i) := by
  have hgive : ∀ f, SameWay s ((s.giveBinList (s.orderAt i).bins).modOrder i f) := fun f => by
    simp only [giveBinList]
    split <;> exact .plain rfl rfl rfl
  simp only [cancel]
  split
  · exact (hgive _).trans (.of_orderFrame (freeOrder_frame _ _))
  · exact (hgive _).trans (.of_orderFrame (setOrderState_frame _ _ _))

theorem freeBinList_sameWay (s : State) (bs : List Nat) : SameWay s (s.freeBinList bs) := by
  simp only [freeBinList]
  split <;> exact .plain rfl rfl rfl

theorem afterSkip_sameWay (s : State) (i : Nat) : SameWay s (s.afterSkip i) := by
  have hst : ∀ st, SameWay s (s.setOrderState i st) := fun st => .of_orderFrame (setOrderState_frame s i st)
  simp only [afterSkip]
  split
  · exact .plain rfl rfl rfl
  · split
    · exact hst _
    · exact hst _
    · exact .plain rfl rfl rfl

theorem resetActive_sameWay (s : State) : SameWay s s.resetActive := by
  simp only [resetActive]
  split
  · exact .plain rfl rfl rfl
  · exact .of_orderFrame (setOrderState_frame s _ _)

theorem withdraw_sameWay (s : State) (i : Nat) : SameWay s (s.withdraw i) :=
  ((SameWay.of_orderFrame (setOrderState_frame s i .opened)).trans (freeBinList_sameWay _ _)).trans
    (.plain rfl rfl rfl)

end State

/-! ### The web -/

theorem mem_modAt {α : Type} {f : α → α} {x : α} : ∀ {l : List α} {k : Nat}, x ∈ modAt f l k →
    x ∈ l ∨ ∃ y ∈ l, x = f y
  | [], _, h => (by cases h)
  | y :: ys, 0, h => by
    rcases List.mem_cons.1 h with h | h
    · exact .inr ⟨y, List.mem_cons_self .., h⟩
    · exact .inl (List.mem_cons_of_mem _ h)
  | y :: ys, k + 1, h => by
    rcases List.mem_cons.1 h with h | h
    · exact .inl (h ▸ List.mem_cons_self ..)
    · rcases mem_modAt h with h | ⟨z, hz, e⟩
      · exact .inl (List.mem_cons_of_mem _ h)
      · exact .inr ⟨z, List.mem_cons_of_mem _ hz, e⟩

/-! ### A cut -/

/-- The records behind the piece that a cut completes. -/
def Cutter.behind (c : Cutter) : List WebRecord := if c.openPiece.isSome then c.web.drop 1 else c.web

theorem Cutter.behind_sublist (c : Cutter) : c.behind.Sublist c.web := by
  simp only [behind]
  split
  · exact List.drop_sublist 1 _
  · exact .refl _

theorem Cutter.openPiece_cons {c : Cutter} {x : WebRecord} (h : c.openPiece = some x) :
    ∃ rest, c.web = x :: rest ∧ x.leading = true := by
  simp only [openPiece] at h
  split at h
  · next y rest hy =>
    split at h
    · next hl => cases h; exact ⟨rest, hy, hl⟩
    · cases h
  · cases h

/-- A due cut has a record behind the open piece: the last record stays on the web. -/
theorem Cutter.behind_last (c : Cutter) {p : Nat} (due : c.cutDue p = true) :
    c.behind.getLast? = c.web.getLast? := by
  simp only [behind]
  split
  · next ho =>
    obtain ⟨x, hx⟩ := Option.isSome_iff_exists.1 ho
    obtain ⟨rest, hw, hl⟩ := openPiece_cons hx
    cases rest with
    | nil => simp [cutDue, pendingCut, hw, hl] at due
    | cons y ys => simp [hw]
  · rfl

theorem openAtCut_orders {l : List WebRecord}
    (h : ∀ r ∈ l, r.order.isSome = true → r.kind = .print ∨ r.kind = .index) :
    (openAtCut l).filterMap (·.order) = l.filterMap (·.order) := by
  cases l with
  | nil => rfl
  | cons x rest =>
    simp only [openAtCut]
    split
    · next hc =>
      cases ho : x.order with
      | none => simp [ho]
      | some k => rcases h x (List.mem_cons_self ..) (by simp [ho]) with e | e <;> simp [e] at hc
    · rfl

theorem mem_openAtCut {l : List WebRecord} {x : WebRecord} (h : x ∈ openAtCut l) :
    ∃ y ∈ l, x.load = y.load := by
  cases l with
  | nil => cases h
  | cons y rest =>
    simp only [openAtCut] at h
    split at h
    · exact ⟨x, List.mem_cons_of_mem _ h, rfl⟩
    · rcases List.mem_cons.1 h with rfl | h
      · exact ⟨y, List.mem_cons_self .., rfl⟩
      · exact ⟨x, List.mem_cons_of_mem _ h, rfl⟩

theorem openAtCut_last {l : List WebRecord} {r : WebRecord} (h : l.getLast? = some r)
    (hk : r.kind ≠ .closing) : ∃ x, (openAtCut l).getLast? = some x ∧ x.load = r.load := by
  cases l with
  | nil => cases h
  | cons y rest =>
    cases rest with
    | nil =>
      obtain rfl : y = r := by simpa using h
      exact ⟨{ y with leading := true }, by simp [openAtCut, hk], rfl⟩
    | cons z zs =>
      refine ⟨r, ?_, rfl⟩
      simp only [openAtCut]
      split <;> simpa using h

namespace State

theorem startPump_monitor_sheets (s : State) : s.startPump.monitor.sheets = s.monitor.sheets := by
  simp only [startPump]; split <;> rfl

theorem startPump_engine (s : State) : s.startPump.engine = s.engine := by
  simp only [startPump]; split <;> rfl

theorem startPump_cutter (s : State) : s.startPump.cutter = s.cutter := by
  simp only [startPump]; split <;> rfl

theorem handOff_sheets (s : State) (k : FrameKind) (o : Option OrderItem) (a : Nat) (b : Bool) :
    (s.handOff k o a b).monitor.sheets.filterMap (·.order) =
      s.monitor.sheets.filterMap (·.order) ++ o.toList := by
  rw [handOff, startPump_monitor_sheets]
  show (s.monitor.sheets ++ [_]).filterMap _ = _
  rw [List.filterMap_append]
  cases o <;> rfl

theorem completePiece_web (s : State) : s.completePiece.cutter.web = s.cutter.behind := by
  simp only [completePiece, Cutter.behind]
  split
  · next h => simp [h]
  · next x h =>
    rw [h]
    split
    · rw [handOff, startPump_cutter]; rfl
    · rfl

theorem completePiece_engine (s : State) : s.completePiece.engine = s.engine := by
  simp only [completePiece]
  split
  · rfl
  · split
    · rw [handOff, startPump_engine]; rfl
    · rfl

theorem completePiece_orders (s : State)
    (hk : ∀ r ∈ s.cutter.web, r.order.isSome = true → r.kind = .print ∨ r.kind = .index) :
    s.carriers.Perm (s.cutter.behind.filterMap (·.order) ++
      s.completePiece.monitor.sheets.filterMap (·.order)) := by
  cases h : s.cutter.openPiece with
  | none =>
    simp only [completePiece, Cutter.behind, h]
    exact .refl _
  | some x =>
    obtain ⟨rest, hw, _⟩ := Cutter.openPiece_cons h
    have hweb : s.cutter.web.filterMap (·.order) = x.order.toList ++ rest.filterMap (·.order) := by
      rw [hw, List.filterMap_cons]
      cases x.order <;> rfl
    have hbehind : s.cutter.behind = rest := by simp [Cutter.behind, h, hw]
    rw [hbehind, carriers, hweb]
    simp only [completePiece, h]
    split
    · rw [handOff_sheets]
      show (x.order.toList ++ _ ++ _).Perm (_ ++ (s.monitor.sheets.filterMap (·.order) ++ _))
      rw [List.append_assoc, ← List.append_assoc (rest.filterMap _)]
      exact List.perm_append_comm
    · next hnone =>
      have ho : x.order = none := by
        cases e : x.order with
        | none => rfl
        | some k =>
          rcases hk x (by rw [hw]; exact List.mem_cons_self ..) (by simp [e]) with k | k <;>
            simp [k, RecordKind.sheet] at hnone
      rw [ho]
      exact .refl _

theorem fireCut_web (s : State) : s.fireCut.cutter.web = openAtCut s.cutter.behind := by
  have h : ∀ t : State, t.completePiece.cutter.web = t.cutter.behind := completePiece_web
  simp only [fireCut]
  split
  · show openAtCut (completePiece _).cutter.web = _
    rw [h]; rfl
  · show openAtCut (completePiece _).cutter.web = _
    rw [h]; rfl

theorem fireCut_engine (s : State) : s.fireCut.engine = s.engine := by
  simp only [fireCut]
  split
  · exact completePiece_engine _
  · exact completePiece_engine _

theorem fireCut_orders (s : State)
    (hk : ∀ r ∈ s.cutter.web, r.order.isSome = true → r.kind = .print ∨ r.kind = .index) :
    s.carriers.Perm (s.cutter.behind.filterMap (·.order) ++
      s.fireCut.monitor.sheets.filterMap (·.order)) := by
  simp only [fireCut]
  split
  · exact completePiece_orders { s with
      cutter.blade := .down s.ms s.cutter.cutDwell
      cutter.homeInput := false
      cutter.lastCut := some s.transport.position } hk
  · exact completePiece_orders { s with
      cutter.blade := .down s.ms s.cutter.cutDwell
      cutter.homeInput := false
      cutter.lastCut := some s.transport.position } hk

end State

namespace CountsSound

variable {s : State}

/-- The print of the frame being written, then the others in flight. -/
theorem carriers_written (h : CountsSound s) {c : FrameContext} (hw : s.engine.work = .frame c) :
    s.carriers.Perm ((c.target.map fun t => OrderItem.mk t.number t.item).toList ++
      (s.cutter.web.dropLast.filterMap (·.order) ++ s.monitor.sheets.filterMap (·.order))) := by
  obtain ⟨r, hr, _, horder⟩ := h.written c hw
  have hsplit : s.cutter.web = s.cutter.web.dropLast ++ [r] := (List.dropLast_append_getLast? r hr).symm
  rw [State.carriers, hsplit, List.filterMap_append, ← horder]
  simp only [List.dropLast_concat, ← List.append_assoc]
  refine List.Perm.append_right _ ?_
  cases e : r.order <;> simp [e]

/-- The print of the frame that is aborted is in flight when its spoil is taken. -/
theorem accounted_endFrame (h : CountsSound s) {c : FrameContext} (hw : s.engine.work = .frame c) :
    Accounted s.endFrame ((c.target.map fun t => OrderItem.mk t.number t.item).toList ++
      (s.cutter.web.dropLast.filterMap (·.order) ++ s.monitor.sheets.filterMap (·.order))) :=
  (((countsSound_iff s).1 h).1.perm (h.carriers_written hw)).of_book rfl

/-- The frame being written is aborted: its print is spoiled, and its record carries none any more. -/
theorem aborts (h : CountsSound s) (hs : BookSound s) (writing : s.writing = true) :
    CountsSound s.abortFrame.wasteLast := by
  have hweb := ((countsSound_iff s).1 h).2
  cases hw : s.engine.work with
  | idle => simp [State.writing, hw] at writing
  | closing a n => simp [State.writing, hw] at writing
  | frame c =>
    have habort : s.abortFrame = s.endFrame.spoil? (c.target.map fun t => ⟨t.number, t.item⟩) := by
      simp [State.abortFrame, State.frame?, hw]
    have hframe := State.spoil?_frame s.endFrame (c.target.map fun t => ⟨t.number, t.item⟩)
    have hcut : s.abortFrame.cutter = s.cutter := by rw [habort, hframe]; rfl
    have hmon : s.abortFrame.monitor = s.monitor := by rw [habort, hframe]; rfl
    have hcarry : s.abortFrame.wasteLast.carriers =
        s.cutter.web.dropLast.filterMap (·.order) ++ s.monitor.sheets.filterMap (·.order) := by
      simp only [State.carriers, State.wasteLast, hcut, hmon]
      rw [State.filterMap_modAt_last]
    refine (countsSound_iff _).2 ⟨?_, fun x hx ho => ?_, fun f hf => ?_⟩
    · have hspoil := (h.accounted_endFrame hw).spoil? (hs.of_book rfl)
      rw [← habort, ← hcarry] at hspoil
      exact hspoil.of_book rfl
    · simp only [State.wasteLast, hcut] at hx
      rcases mem_modAt hx with hx | ⟨y, _, rfl⟩
      · exact hweb.kinds x hx ho
      · cases ho
    · exact absurd (hf.symm.trans (State.abortFrame_work s writing)) (by simp)

/-- The list is dropped: each print on it is spoiled. -/
theorem dropsWeb (h : CountsSound s) (hs : BookSound s) (idle : s.writing = false) : CountsSound s.dropWeb := by
  obtain ⟨hacc, _⟩ := (countsSound_iff s).1 h
  have hframe := State.foldl_spoil_frame (s.cutter.web.filterMap fun x => x.order) { s with cutter := s.cutter.drop }
  have hspoiled : Accounted ((s.cutter.web.filterMap fun x => x.order).foldl State.spoil
      { s with cutter := s.cutter.drop }) (s.monitor.sheets.filterMap (·.order)) :=
    Accounted.spoils _ (hacc.of_book rfl) (hs.of_book rfl)
  have hdropped : CountsSound ((s.cutter.web.filterMap fun x => x.order).foldl State.spoil
      { s with cutter := s.cutter.drop }) := by
    refine (countsSound_iff _).2 ⟨?_, ?_, fun f hf => ?_⟩
    · rw [hframe] at hspoiled ⊢
      exact hspoiled
    · rw [hframe]
      exact fun r hr => absurd hr (List.not_mem_nil)
    · rw [hframe] at hf
      simp [State.writing, show s.engine.work = .frame f from hf] at idle
  simp only [State.dropWeb]
  split
  · exact hdropped
  · exact hdropped.of_aside (State.dueAttempt_aside _)

/-- The head sheet's print, then those behind it. -/
theorem carriers_head {x : Sheet} {rest : List Sheet} (head : s.monitor.sheets = x :: rest) :
    s.carriers.Perm (x.order.toList ++ ({ s with monitor.sheets := rest } : State).carriers) := by
  simp only [State.carriers, head, List.filterMap_cons]
  cases x.order with
  | none => exact .refl _
  | some k => simp

theorem of_tail (h : CountsSound s) {t : State} (web : t.cutter = s.cutter) (work : t.engine = s.engine) :
    WebSound t :=
  ⟨web ▸ h.kinds, by rw [web, work]; exact h.written⟩

/-- The head sheet leaves the list, its print spoiled. -/
theorem losesHead (h : CountsSound s) (hs : BookSound s) : CountsSound s.loseHead := by
  have hacc := ((countsSound_iff s).1 h).1
  simp only [State.loseHead]
  split
  · exact h
  · next x rest hx =>
    have hspoil := Accounted.spoil? (s := { s with monitor.sheets := rest })
      ((hacc.perm (carriers_head hx)).of_book rfl) (hs.of_book rfl)
    have hway := SameWay.of_orderFrame (State.spoil?_frame { s with monitor.sheets := rest } x.order)
    have hlost : CountsSound (({ s with monitor.sheets := rest } : State).spoil? x.order) :=
      (countsSound_iff _).2 ⟨hway.carriers ▸ hspoil, hway.webSound (h.of_tail rfl rfl)⟩
    exact hlost.of_aside (State.dueAttempt_aside _)

/-- The head sheet leaves the list and is sorted. -/
theorem sorts (h : CountsSound s) (hs : BookSound s) {x : Sheet} {rest : List Sheet}
    (head : s.monitor.sheets = x :: rest) :
    CountsSound (({ s with monitor.sheets := rest }.dueAttempt).sortSheet x) := by
  have hacc := ((countsSound_iff s).1 h).1
  have hsort := Accounted.sortSheet (s := ({ s with monitor.sheets := rest } : State).dueAttempt)
    ((hacc.perm (carriers_head head)).of_book rfl) (hs.of_book rfl)
  have hway := State.sortSheet_sameWay ({ s with monitor.sheets := rest } : State).dueAttempt x
  exact (countsSound_iff _).2 ⟨hway.carriers ▸ hsort, hway.webSound (h.of_tail rfl rfl)⟩

/-- A due cut fires: the piece ahead of it leaves the web for the processor or the chute. -/
theorem cuts (h : CountsSound s) (due : s.cutter.cutDue s.transport.position = true) : CountsSound s.fireCut := by
  obtain ⟨hacc, hweb⟩ := (countsSound_iff s).1 h
  have hb := s.cutter.behind_sublist
  have hkinds : ∀ r ∈ s.cutter.behind, r.order.isSome = true → r.kind = .print ∨ r.kind = .index :=
    fun r hr => hweb.kinds r (hb.subset hr)
  refine (countsSound_iff _).2 ⟨?_, fun x hx ho => ?_, fun c hc => ?_⟩
  · refine (hacc.perm ?_).of_book (State.fireCut_book s)
    simp only [State.carriers, State.fireCut_web, openAtCut_orders hkinds]
    exact State.fireCut_orders s hweb.kinds
  · rw [State.fireCut_web] at hx
    obtain ⟨y, hy, e⟩ := mem_openAtCut hx
    have hk : x.kind = y.kind := congrArg (·.1) e
    have ho' : x.order = y.order := congrArg (·.2) e
    exact hk ▸ hkinds y hy (ho' ▸ ho)
  · rw [State.fireCut_engine] at hc
    obtain ⟨r, hr, hk, ho⟩ := hweb.written c hc
    rw [← s.cutter.behind_last due] at hr
    obtain ⟨x, hx, e⟩ := openAtCut_last hr hk
    have hk' : x.kind = r.kind := congrArg (·.1) e
    have ho' : x.order = r.order := congrArg (·.2) e
    exact ⟨x, by rw [State.fireCut_web, hx], hk' ▸ hk, ho'.trans ho⟩

theorem gaps (h : CountsSound s) (start : Nat) : CountsSound { s with
    cutter.web := s.cutter.web ++ [s.cutter.newRecord .closing none start 48 0]
    engine.work := .closing start 0 } := by
  obtain ⟨hacc, hweb⟩ := (countsSound_iff s).1 h
  refine (countsSound_iff _).2 ⟨?_, fun r hr ho => ?_, fun f hf => (by cases hf)⟩
  · have hcarry : ((s.cutter.web ++ [s.cutter.newRecord .closing none start 48 0]).filterMap (·.order) ++
        s.monitor.sheets.filterMap (·.order)) = s.carriers := by
      simp [State.carriers, Cutter.newRecord]
    rw [← hcarry] at hacc
    exact hacc.of_book rfl
  · rcases List.mem_append.1 hr with hr | hr
    · exact hweb.kinds r hr ho
    · rw [List.mem_singleton.1 hr] at ho
      cases ho

end CountsSound

end Sys2Proof.Machine
end


section
/-! Every step keeps the prints accounted for (O13): the acts of the commands, then what coming to rest does. -/

set_option Elab.async false

namespace Sys2Proof.Machine

namespace CountsSound

variable {s : State}

theorem acc (h : CountsSound s) : Accounted s s.carriers := ((countsSound_iff s).1 h).1

theorem opens (h : CountsSound s) {i n promo : Nat} {origin : Origin} {service : Service} {index : Bool}
    (free : firstRecord (fun o => !o.live) s.book.records = some i)
    (ht : BookSound (s.modOrder i fun _ =>
      { Order.free with
        number := n, state := .opened, origin := origin, service := service, promo := promo
        indexRequested := index, index := if index then some ⟨none, Counts.new 1⟩ else none })) :
    CountsSound (s.modOrder i fun _ =>
      { Order.free with
        number := n, state := .opened, origin := origin, service := service, promo := promo
        indexRequested := index, index := if index then some ⟨none, Counts.new 1⟩ else none }) := by
  have hdead : (s.orderAt i).live = false := by simpa [State.orderAt] using (State.firstRecord_some free).2
  have hcounts : ∀ m ∈ (if index then some (IndexItem.mk none (Counts.new 1)) else none).map (·.n) |>.toList,
      m.w = 0 ∧ m.d = 0 ∧ m.p + m.s = m.q + m.c := by
    cases index <;> simp [Counts.new]
  refine h.of_sameWay (.plain rfl rfl rfl) (h.acc.replace ht rfl (fun hl => ?_)
    (Accounted.opened_fine (by simp) rfl ?_) (Accounted.landed_of_counts ?_))
  · rw [hdead] at hl; cases hl
  · exact fun m hm => hcounts m hm
  · exact fun m hm => hcounts m hm

theorem addsItem (h : CountsSound s) (hs : BookSound s) {i q : Nat} {x : Item}
    (opened : (s.orderAt i).state = .opened) (new : x.n = Counts.new q) :
    CountsSound (s.modOrder i fun o => { o with items := o.items ++ [x] }) := by
  refine h.of_sameWay (.plain rfl rfl rfl) (h.acc.edit (hs.modOrder i _ fun _ => rfl) opened
    (by simp [opened]) rfl fun n hn => ?_)
  rcases Accounted.mem_counts_items hn with ⟨y, hy, rfl⟩ | hn
  · rcases List.mem_append.1 hy with hy | hy
    · exact .inl (Accounted.mem_counts_of_item hy)
    · exact .inr ⟨q, by rw [List.mem_singleton.1 hy, new]⟩
  · exact .inl (List.mem_append_right _ hn)

theorem dropsItem (h : CountsSound s) (hs : BookSound s) {i k : Nat} (opened : (s.orderAt i).state = .opened) :
    CountsSound (s.modOrder i fun o => o.dropItem k) := by
  refine h.of_sameWay (.plain rfl rfl rfl) (h.acc.edit (hs.modOrder i _ fun _ => rfl) opened
    (by simp [Order.dropItem, opened]) rfl fun n hn => ?_)
  rcases Accounted.mem_counts_items hn with ⟨y, hy, rfl⟩ | hn
  · exact .inl (Accounted.mem_counts_of_item (List.mem_of_mem_eraseIdx hy))
  · exact .inl (List.mem_append_right _ hn)

theorem notes (h : CountsSound s) {i : Nat} {f : Order → Order} (same : ∀ o, (f o).ledger = o.ledger) :
    CountsSound (s.modOrder i f) := by
  have hsame : ∀ o, Order.Fine o → Order.Fine (f o) ∧ Order.SameFlight o (f o) := fun o ho => by
    have hf : Order.Fine (f o).ledger := by
      rw [same]; exact ⟨ho.balance, ho.fresh, ho.openFresh, ho.readyLanded⟩
    have hfl : Order.SameFlight o (f o).ledger := by rw [same]; exact ⟨rfl, rfl, fun _ => rfl⟩
    exact ⟨⟨hf.balance, hf.fresh, hf.openFresh, hf.readyLanded⟩, ⟨hfl.live, hfl.number, hfl.flight⟩⟩
  exact h.of_sameWay (.plain rfl rfl rfl) (h.acc.modOrder i f fun _ => hsame _ (h.acc.fine i))

theorem collects (h : CountsSound s) (hs : BookSound s) {i : Nat} (ready : (s.orderAt i).state = .ready)
    (bs : List Nat) : CountsSound ((s.freeBinList bs).freeOrder i) := by
  have hbook := State.freeBinList_book s bs
  refine h.of_sameWay ((State.freeBinList_sameWay s bs).trans (.of_orderFrame (State.freeOrder_frame _ _)))
    ((h.acc.of_book hbook).freeOrder (hs.of_book hbook) ?_)
  rw [State.orderAt_congr (s := s) (by rw [hbook]) i]
  exact fun _ => (h.acc.fine i).readyLanded ready

/-- The account is the book's: what leaves the book and the prints' way keeps the invariant. -/
theorem of_way (h : CountsSound s) {t : State} (book : t.book = s.book) (way : SameWay s t) : CountsSound t :=
  h.of_sameWay way (h.acc.of_book book)

end CountsSound

theorem Act.keeps_countsSound {c : Instr} {s t : State} (h : Act c s t) (hs : BookSound s)
    (hc : CountsSound s) : CountsSound t := by
  have hacc := hc.acc
  have ht := h.keeps_bookSound hs
  cases h with
  | aside h => exact hc.of_aside h
  | stores h =>
    obtain ⟨hb, _, hcut, hmon, hwork, _⟩ := h.leaves
    exact hc.of_way hb ⟨by rw [hcut], by rw [hmon], fun f hf => ⟨f, hwork ▸ hf, rfl⟩⟩
  | steers h => obtain ⟨tr, us, rfl⟩ := h.leaves; exact hc.of_way rfl (.plain rfl rfl rfl)
  | opens free => exact hc.opens free ht
  | addsItem opened new => exact hc.addsItem hs opened new
  | dropsItem opened => exact hc.dropsItem hs opened
  | dropsSlot => exact hc.of_sameWay (.plain rfl rfl rfl) (hacc.removeSlotItems hs _)
  | commits opened =>
    refine hc.of_sameWay (.after (.of_orderFrame (State.setOrderState_frame _ _ _)) ?_) (hacc.commits opened _)
    exact .plain rfl rfl rfl
  | withdraws queued fresh => exact hc.of_sameWay (State.withdraw_sameWay s _) (hacc.withdraw hs queued fresh)
  | discards opened =>
    exact hc.of_sameWay (.of_orderFrame (State.freeOrder_frame s _))
      (hacc.freeOrder hs ((hacc.fine _).landed_of_opened opened))
  | collects ready => exact hc.collects hs ready _
  | cancels committed => exact hc.of_sameWay (State.cancel_sameWay s _) (hacc.cancel hs committed)
  | notes same => exact hc.notes same
  | holds => exact hc.of_sameWay (.of_orderFrame (State.addHold_frame s _ _)) (hacc.addHold _ _)
  | releases =>
    exact hc.of_sameWay (.of_orderFrame ((State.modOrder_frame s _ _).trans (State.leaveHeld_frame _ _)))
      (hacc.release _ _)
  | unpapers => exact hc.of_sameWay (.of_orderFrame (State.releasePaper1_frame s _)) (hacc.releasePaper1 _)
  | reprints ready =>
    refine hc.of_sameWay (.after (.of_orderFrame (State.setOrderState_frame _ _ _)) ?_)
      (hacc.reprints ready _ _ _)
    exact .plain rfl rfl rfl
  | skips =>
    refine hc.of_sameWay (.after (State.afterSkip_sameWay _ _) ?_) (hacc.skips _ _)
    exact .plain rfl rfl rfl
  | empties => exact hc.of_way (State.freeBinList_book s _) (State.freeBinList_sameWay s _)
  | losesHead => exact hc.losesHead hs
  | sorts head => exact hc.sorts hs head
  | aborts writing => exact hc.aborts hs writing
  | dropsWeb idle => exact hc.dropsWeb hs idle
  | resetsActive => exact hc.of_sameWay (State.resetActive_sameWay s) hacc.resetActive
  | cuts due => exact hc.cuts due
  | gaps => exact hc.gaps _

/-! ### Coming to rest -/

/-- What bringing a command to rest does besides the acts of commands: an order is HELD at a frame's end, one is
selected, a frame starts. -/
inductive RestAct : State → State → Prop
  | act {c : Instr} {s t : State} (h : Act c s t) : RestAct s t
  /-- The ACTIVE order with a hold reason at a frame's end (R63). -/
  | endsHeld {s : State} {i : Nat} (active : (s.orderAt i).state = .active) :
      RestAct s (s.setOrderState i .held)
  /-- A scan selects an order (R24, R54, R155). -/
  | selects {s t : State} {i : Nat} (queued : (s.orderAt i).state = .queued) (free : ∀ j, (s.orderAt j).state ≠ .active)
      (reserved : s.reserve i = some t) : RestAct s (t.select i)
  /-- A frame starts: a test frame, or one of a pending print of the ACTIVE order (R62). -/
  | starts {s : State} {m : MagSlot} {g : Geometry} {target : Option Target} (idle : s.writing = false)
      (free : s.frameWait g.area = .none)
      (pending : ∀ x, target = some x → (s.orderAt x.record).state = .active ∧
        x.number = (s.orderAt x.record).number ∧
        ∃ n, (s.orderAt x.record).countsAt x.item = some n ∧ 0 < n.p) :
      RestAct s (s.startFrame m g target)

/-- A chain of what coming to rest does. -/
def Rests : State → State → Prop := Relation.ReflTransGen RestAct

namespace Rests

variable {s t u : State}

theorem refl : Rests s s := Relation.ReflTransGen.refl

theorem trans (h : Rests s t) (k : Rests t u) : Rests s u := Relation.ReflTransGen.trans h k

theorem single (k : RestAct s t) : Rests s t := Relation.ReflTransGen.single k

theorem of_acts {c : Instr} (h : Acts c s t) : Rests s t :=
  h.keeps (P := fun x => Rests s x) (fun _ _ a hr => hr.trans (single (.act a))) refl

theorem aside (h : Rests s t) (k : Aside t u) : Rests s u := h.trans (of_acts (.of_aside (c := .powerOn) k))

theorem of_aside (k : Aside s t) : Rests s t := refl.aside k

theorem after (k : Rests t u) (h : Aside s t) : Rests s u := (of_aside h).trans k

theorem keeps {P : State → Prop} (hP : ∀ s t, RestAct s t → P s → P t) (h : Rests s t) (hs : P s) : P t := by
  induction h with
  | refl => exact hs
  | tail _ a ih => exact hP _ _ a ih

end Rests

namespace State

theorem defer_aside (s : State) : Aside s s.defer := .plain rfl rfl rfl rfl rfl rfl rfl

theorem paperEvents_rests (before s : State) : Rests s (paperEvents before s) := by
  have hpaper : Rests s s.releasePaper := .of_acts (releasePaper_acts (c := .powerOn) s)
  simp only [paperEvents]
  split
  · have hdefer : ∀ b : Bool, Rests s (if b then s.releasePaper.defer else s.releasePaper) := fun b => by
      split
      · exact hpaper.aside (defer_aside _)
      · exact hpaper
    split
    · exact (hdefer _).aside (dueAttempt_aside _)
    · exact hdefer _
  · exact .refl

theorem endFlush_aside (s : State) : Aside s s.endFlush := by
  have h : Aside s s.clearRequest.dueScan.dueAttempt := .plain rfl rfl rfl rfl rfl rfl rfl
  simp only [endFlush]
  split
  · split
    · exact h.trans (addCause_aside _ _)
    · exact h.trans (setLine_aside _ _)
  · exact .refl s

/-- The first step at a frame end (R63): the ACTIVE order with a hold reason is HELD. -/
def heldAtEnd (s : State) : State :=
  match s.current with
  | some i => if (s.orderAt i).holds.isEmpty then s else s.setOrderState i .held
  | none => s

theorem heldAtEnd_rests (s : State) : Rests s s.heldAtEnd := by
  simp only [heldAtEnd]
  split
  · next i hi =>
    split
    · exact .refl
    · exact .single (.endsHeld (current_some hi))
  · exact .refl

theorem pauseAtEnd_aside (s : State) : Aside s ({ (if s.ctl.pausePending then
    { s with ctl.runEnable := false, ctl.pausePending := false } else s) with
      due.frameEnd := false } : State).dueScan.dueAttempt := by
  split <;> exact .plain rfl rfl rfl rfl rfl rfl rfl

theorem frameEndSteps_rests (s : State) : Rests s s.frameEndSteps := by
  unfold frameEndSteps
  split
  · exact (heldAtEnd_rests s).aside (pauseAtEnd_aside _)
  · exact .refl

theorem encoderRespond_rests (s : State) : Rests s s.encoderRespond := by
  simp only [encoderRespond]
  split
  · split
    · split
      · exact .of_aside (addCause_aside s _)
      · exact .of_acts (startFlush_acts (c := .powerOn) s)
    · exact .of_aside (addCause_aside s _)
    · exact .refl
  · exact .refl

theorem startPending_aside (s : State) : Aside s s.startPending := by
  simp only [startPending]
  split
  · exact .refl s
  · split
    · exact .refl s
    · split
      · exact startCalibration_aside s _
      · exact startCalibration_aside s _
      · exact startCalibration_aside s _
      · exact .refl s

theorem leaveExposing_aside (s : State) : Aside s s.leaveExposing := by
  simp only [leaveExposing]
  split
  · exact setLine_aside s _
  · exact .refl s

theorem sync_aside (s : State) (k : Nat) : Aside s (s.sync k) :=
  .trans (syncMotor_aside s) (.plain rfl rfl rfl rfl rfl rfl rfl)

theorem addHold_state (s : State) (i j : Nat) (r : Hold) :
    ((s.addHold i r).orderAt j).state = (s.orderAt j).state ∨ ((s.addHold i r).orderAt j).state = .held := by
  have hmod : ((s.modOrder i fun o => { o with holds := o.holds.add r }).orderAt j).state =
      (s.orderAt j).state := by
    rw [orderAt_modOrder]
    split
    · next e => rw [e.1]
    · rfl
  rcases addHold_cases s i r with e | e | ⟨_, e⟩ <;> rw [e]
  · exact .inl rfl
  · exact .inl hmod
  · rw [setOrderState_orderAt]
    split
    · exact .inr rfl
    · exact .inl hmod

theorem scanWalk_rests : ∀ (l : List Nat) (s : State), l.Nodup → (∀ i ∈ l, (s.orderAt i).state = .queued) →
    (∀ j, (s.orderAt j).state ≠ .active) → Rests s (s.scanWalk l)
  | [], s, _, _, _ => .of_aside (.plain rfl rfl rfl rfl rfl rfl rfl)
  | i :: rest, s, hn, hq, hc => by
    obtain ⟨hi, hn⟩ := List.nodup_cons.1 hn
    have hrest : ∀ j ∈ rest, (s.orderAt j).state = .queued := fun j hj => hq j (List.mem_cons_of_mem _ hj)
    simp only [scanWalk]
    split
    · refine (Rests.single (.act (c := .powerOn) .holds)).trans
        (scanWalk_rests rest _ hn (fun j hj => ?_) fun j => ?_)
      · have hji : j ≠ i := fun e => hi (e ▸ hj)
        rw [addHold_other s _ hji]
        exact hrest j hj
      · rcases addHold_state s i j .paper with e | e <;> rw [e]
        · exact hc j
        · simp
    · split
      · next t ht => exact .single (.selects (hq i (List.mem_cons_self ..)) hc ht)
      · exact scanWalk_rests rest s hn hrest hc

theorem runScan_rests {s : State} (hs : BookSound s) : Rests s s.runScan := by
  simp only [runScan]
  split
  · have hdue : Aside s { s with due.scan := false } := .plain rfl rfl rfl rfl rfl rfl rfl
    split
    · next h =>
      simp only [mayScan, Bool.and_eq_true, Option.isNone_iff_eq_none] at h
      exact Rests.after (scanWalk_rests s.book.queue { s with due.scan := false } hs.queueOnce
        (fun i hi => (hs.queueExact i).1 hi) (current_none h.1.1.1.1.1.1)) hdue
    · exact .of_aside hdue
  · exact .refl

theorem waitFor_aside (s : State) (w : WaitCause) : Aside s (s.waitFor w) :=
  .plain rfl rfl rfl rfl rfl rfl rfl

theorem requestChange_rests (s : State) (m : MagSlot) : Rests s (s.requestChange m) := by
  simp only [requestChange, startChangeover]
  split
  · exact .of_aside ((setLine_aside _ _).after (.plain rfl rfl rfl rfl rfl rfl rfl))
  · refine Rests.after (.of_acts (startFlush_acts (c := .powerOn) _)) ?_
    exact (setLine_aside _ _).after (.plain rfl rfl rfl rfl rfl rfl rfl)

theorem tryChange_rests (s : State) (m : MagSlot) : Rests s (s.tryChange m) := by
  simp only [tryChange]
  split
  · exact (requestChange_rests _ m).after (waitFor_aside s _)
  · exact .of_aside (waitFor_aside s _)

theorem startIfClear_rests {s : State} (m : MagSlot) (g : Geometry) (target : Option Target)
    (idle : s.writing = false) (pending : ∀ x, target = some x → (s.orderAt x.record).state = .active ∧
      x.number = (s.orderAt x.record).number ∧
      ∃ n, (s.orderAt x.record).countsAt x.item = some n ∧ 0 < n.p) :
    Rests s (s.startIfClear m g target) := by
  simp only [startIfClear]
  split
  · next h => exact .single (.starts idle h pending)
  · exact .of_aside (waitFor_aside s _)

theorem attemptTest_rests {s : State} (idle : s.writing = false) : Rests s s.attemptTest := by
  have hdrop : Aside s (({ s with cal.test := none } : State).waitFor s.firstWait) :=
    .plain rfl rfl rfl rfl rfl rfl rfl
  simp only [attemptTest]
  split
  · exact .of_aside (waitFor_aside s _)
  · split
    · exact .of_aside hdrop
    · split
      · exact .of_aside hdrop
      · split
        · exact tryChange_rests s _
        · split
          · next h =>
            refine Rests.after (.single (.starts ?_ ?_ fun x hx => by cases hx)) ?_
            · exact idle
            · exact h
            · exact .plain rfl rfl rfl rfl rfl rfl rfl
          · exact .of_aside (waitFor_aside s _)

theorem pending_of_candidate {o : Order} {k : Nat} (h : k ∈ o.candidates) :
    ∃ n, o.countsAt k = some n ∧ 0 < n.p := by
  simp only [Order.candidates] at h
  split at h
  · split at h
    · next hp =>
      rw [List.mem_singleton.1 h]
      simpa [Option.any_eq_true] using hp
    · cases h
  · simpa [Order.pendingItems, Option.any_eq_true] using (List.mem_filter.1 h).2

theorem attemptOrder_rests {s : State} {i : Nat} (idle : s.writing = false)
    (active : (s.orderAt i).state = .active) : Rests s (s.attemptOrder i) := by
  simp only [attemptOrder]
  split
  · exact Rests.after (.single (.act (c := .powerOn) .holds)) (waitFor_aside s _)
  · exact tryChange_rests s _
  · next item hitem =>
    split
    · refine startIfClear_rests _ _ _ idle fun x hx => ?_
      cases hx
      refine ⟨active, rfl, pending_of_candidate ?_⟩
      simp only [choose] at hitem
      split at hitem
      · next hf => cases hitem; exact List.mem_of_find?_eq_some hf
      · split at hitem <;> cases hitem
    · exact .refl

theorem attempt_rests (s : State) : Rests s s.attempt := by
  simp only [attempt]
  split
  · exact .refl
  · next h =>
    have idle : s.writing = false := by
      simp only [Bool.or_eq_true, not_or, Bool.not_eq_true] at h
      exact h.1
    split
    · exact .of_aside (waitFor_aside s _)
    · refine Rests.after (t := { s with sched.deferred := false }) ?_ (.plain rfl rfl rfl rfl rfl rfl rfl)
      simp only [settleAttempt]
      split
      · exact attemptTest_rests idle
      · split
        · next hi => exact attemptOrder_rests idle (current_some hi)
        · exact .of_aside (waitFor_aside _ _)

theorem runAttempt_rests (s : State) : Rests s s.runAttempt := by
  simp only [runAttempt]
  split
  · exact Rests.after (attempt_rests _) (.plain rfl rfl rfl rfl rfl rfl rfl)
  · exact .refl

theorem schedule_rests {s : State} (hs : BookSound s) : Rests s s.schedule := by
  have h1 := (runScan_calm s).sound hs
  have h2 := (runAttempt_calm _).sound h1
  exact (((runScan_rests hs).trans (runAttempt_rests _)).trans (runScan_rests h2)).trans (runAttempt_rests _)

/-- Coming to rest, from a consistent book. -/
theorem settle_rests (before : State) {s : State} (hs : BookSound s) : Rests s (settle before s) := by
  have hends : Rests s (paperEvents before s).endFlush.frameEndSteps :=
    ((paperEvents_rests before s).aside (endFlush_aside _)).trans (frameEndSteps_rests _)
  have hsched : BookSound ((paperEvents before s).endFlush.frameEndSteps).encoderRespond.startPending :=
    (startPending_calm _).sound ((encoderRespond_calm _).sound ((frameEndSteps_calm _).sound
      ((endFlush_calm _).sound ((paperEvents_calm before s).sound hs))))
  have hwork := ((hends.trans (encoderRespond_rests _)).aside (startPending_aside _)).trans (schedule_rests hsched)
  exact (((hwork.aside (leaveExposing_aside _)).trans (encoderRespond_rests _)).aside
    (startPending_aside _)).aside (sync_aside _ _)

/-! ### A reservation -/

/-- The bins a reservation adds to an order (R155). -/
def reservedBins (s : State) (i : Nat) : List Nat :=
  (s.sorter.freeBins (s.sorter.bankFor (s.orderAt i).number)).take
    ((s.orderAt i).need - (s.orderAt i).bins.length)

/-- The sorter with those bins RESERVED for the order. -/
def reservedSorter (s : State) (i : Nat) : Sorter :=
  s.sorter.modBins (fun _ => ⟨.reserved, some (s.orderAt i).number, 0⟩) (s.reservedBins i)

theorem reserve_some {s t : State} {i : Nat} (h : s.reserve i = some t) :
    (s.orderAt i).need - (s.orderAt i).bins.length ≤
        (s.sorter.freeBins (s.sorter.bankFor (s.orderAt i).number)).length ∧
      t = ({ s with sorter := s.reservedSorter i } : State).modOrder i fun o =>
        { o with bins := o.bins ++ s.reservedBins i } := by
  simp only [reserve] at h
  split at h
  · cases h
  · next hlack => cases h; exact ⟨not_lt.1 hlack, rfl⟩

/-! ### A frame start -/

/-- The context of the frame that starts. -/
def startContext (s : State) (m : MagSlot) (g : Geometry) : Option Target → FrameContext
  | some t => s.orderContext t (s.baseContext m g)
  | none => s.baseContext m g

/-- The web record of the frame that starts. -/
def startRecord (s : State) (m : MagSlot) (g : Geometry) (target : Option Target) : WebRecord :=
  s.cutter.newRecord (frameRecord (s.startContext m g target).kind)
    (target.map fun t => ⟨t.number, t.item⟩) (s.startContext m g target).start g.span g.area

/-- The state in which the engine has taken the frame, before the line is EXPOSING (R62). -/
def takeFrame (s : State) (m : MagSlot) (g : Geometry) (target : Option Target) : State :=
  let s := s.copyCorrections.startTarget target
  { s with
    monitor := s.monitor.addArea g.area
    cutter.web := s.cutter.web ++ [s.startRecord m g target]
    engine.work := .frame (s.startContext m g target)
    sched.request := none
    sched.waitCause := .none }

theorem startFrame_eq (s : State) (m : MagSlot) (g : Geometry) (target : Option Target) :
    s.startFrame m g target = ((s.takeFrame m g target).setLine .exposing).countFrame.writeLines := by
  cases target <;> rfl

theorem countFrame_aside (s : State) : Aside s s.countFrame := by
  simp only [countFrame]
  split <;> exact .plain rfl rfl rfl rfl rfl rfl rfl

theorem startFrame_aside (s : State) (m : MagSlot) (g : Geometry) (target : Option Target) :
    Aside (s.takeFrame m g target) (s.startFrame m g target) := by
  rw [startFrame_eq]
  exact ((setLine_aside _ _).trans (countFrame_aside _)).trans (writeLines_aside _)

theorem startContext_target (s : State) (m : MagSlot) (g : Geometry) (target : Option Target) :
    (s.startContext m g target).target = target := by
  cases target with
  | none => rfl
  | some t =>
    simp only [startContext, orderContext]
    split
    · rfl
    · split <;> rfl

/-- A frame of an order is a PRINT or an INDEX frame. -/
theorem startContext_kind (s : State) (m : MagSlot) (g : Geometry) (t : Target) :
    (s.startContext m g (some t)).kind = .print ∨ (s.startContext m g (some t)).kind = .index := by
  simp only [startContext, orderContext]
  split
  · exact .inr rfl
  · split <;> exact .inl rfl

theorem startTarget_frame (s : State) (target : Option Target) :
    (s.startTarget target).cutter = s.cutter ∧ (s.startTarget target).monitor = s.monitor ∧
      (s.startTarget target).engine.work = s.engine.work := by
  have hstart : ∀ t, OrderFrame s (s.startPrint t) := fun t => by
    simp only [startPrint]
    split
    · exact (modOrder_frame _ _ _).trans (setOrderState_frame _ _ _)
    · exact modOrder_frame _ _ _
  cases target with
  | none => exact ⟨rfl, rfl, rfl⟩
  | some t =>
    simp only [startTarget]
    split
    · rw [hstart t]; exact ⟨rfl, rfl, rfl⟩
    · simp only [advanceBackPrint]
      rw [hstart t]; exact ⟨rfl, rfl, rfl⟩

theorem copyCorrections_frame (s : State) : s.copyCorrections.cutter = s.cutter ∧
    s.copyCorrections.monitor = s.monitor ∧ s.copyCorrections.engine.work = s.engine.work := by
  simp only [copyCorrections]
  split <;> exact ⟨rfl, rfl, rfl⟩

theorem takeFrame_facts (s : State) (m : MagSlot) (g : Geometry) (target : Option Target) :
    ∃ c r, (s.takeFrame m g target).cutter.web = s.cutter.web ++ [r] ∧
      (s.takeFrame m g target).monitor.sheets = s.monitor.sheets ∧
      (s.takeFrame m g target).engine.work = .frame c ∧ c.target = target ∧
      r.kind = frameRecord c.kind ∧ r.order = (target.map fun t => ⟨t.number, t.item⟩) ∧
      (target.isSome = true → c.kind = .print ∨ c.kind = .index) ∧
      (s.takeFrame m g target).book = (s.copyCorrections.startTarget target).book := by
  obtain ⟨hcut, hmon, _⟩ := startTarget_frame s.copyCorrections target
  obtain ⟨hcut', hmon', _⟩ := copyCorrections_frame s
  have hweb : (s.copyCorrections.startTarget target).cutter.web = s.cutter.web := by rw [hcut, hcut']
  refine ⟨(s.copyCorrections.startTarget target).startContext m g target,
    (s.copyCorrections.startTarget target).startRecord m g target, ?_, ?_, rfl,
    startContext_target _ m g target, rfl, rfl, fun h => ?_, rfl⟩
  · rw [← hweb]; rfl
  · rw [← hmon', ← hmon]; rfl
  · obtain ⟨t, rfl⟩ := Option.isSome_iff_exists.1 h
    exact startContext_kind _ m g t

theorem startTarget_book (s : State) (t : Target) :
    (s.startTarget (some t)).book = (s.startPrint t).book := by
  simp only [startTarget]
  split <;> rfl

end State

/-! ### The invariant -/

theorem RestAct.keeps_bookSound {s t : State} (h : RestAct s t) (hs : BookSound s) : BookSound t := by
  cases h with
  | act h => exact h.keeps_bookSound hs
  | endsHeld active =>
    exact State.setOrderState_sound_of_committed hs (by simp [Order.committedState, active]) (by simp) (by simp)
  | @selects _ t i queued free reserved =>
    obtain ⟨hk, hq, hn, hst, _⟩ := State.reserve_records reserved
    exact (State.select_calm i (by rw [hst]; exact queued) fun j => by rw [hst]; exact free j).sound
      (hs.of_keys hk hq hn)
  | starts _ _ pending => exact (State.startFrame_calm _ _ _ fun x hx => (pending x hx).1).sound hs

namespace CountsSound

variable {s : State}

/-- Bins reserved for an order leave its prints. -/
theorem selects {t : State} (h : CountsSound s) {i : Nat} (queued : (s.orderAt i).state = .queued)
    (reserved : s.reserve i = some t) : CountsSound (t.select i) := by
  obtain ⟨_, _, _, hst, _⟩ := State.reserve_records reserved
  obtain ⟨_, rfl⟩ := State.reserve_some reserved
  have hf := h.acc.fine i
  have hbins : CountsSound (({ s with sorter := s.reservedSorter i } : State).modOrder i fun o =>
      { o with bins := o.bins ++ s.reservedBins i }) :=
    h.of_sameWay (.plain rfl rfl rfl) (Accounted.modOrder
      (s := { s with sorter := s.reservedSorter i }) (h.acc.of_book rfl) i
      (fun o => { o with bins := o.bins ++ s.reservedBins i }) fun _ =>
      ⟨⟨hf.balance, hf.fresh, hf.openFresh, hf.readyLanded⟩, ⟨rfl, rfl, fun _ => rfl⟩⟩)
  have hactive : CountsSound (State.setOrderState _ i .active) :=
    hbins.of_sameWay (.of_orderFrame (State.setOrderState_frame _ _ _))
      (hbins.acc.enters (by simp) (by simp) (by simp) (State.live_of_state ((hst i).trans queued) (by simp)))
  exact hactive.of_way rfl (.plain rfl rfl rfl)

/-- A frame starts: its print is in flight on the record appended. -/
theorem starts (h : CountsSound s) (hs : BookSound s) {m : MagSlot} {g : Geometry} {target : Option Target}
    (pending : ∀ x, target = some x → (s.orderAt x.record).state = .active ∧
      x.number = (s.orderAt x.record).number ∧
      ∃ n, (s.orderAt x.record).countsAt x.item = some n ∧ 0 < n.p) :
    CountsSound (s.startFrame m g target) := by
  obtain ⟨c, r, hweb, hsheets, hwork, htarget, hkind, horder, hprint, hbook⟩ :=
    s.takeFrame_facts m g target
  have hcopy : s.copyCorrections.book = s.book := State.copyCorrections_book s
  have hacc : Accounted (s.copyCorrections.startTarget target) (r.order.toList ++ s.carriers) := by
    rw [horder]
    cases target with
    | none => exact h.acc.of_book hcopy
    | some x =>
      obtain ⟨hact, hnum, n, hn, hp⟩ := pending x rfl
      have hat := State.orderAt_congr (t := s.copyCorrections) (s := s) (by rw [hcopy]) x.record
      have hstart := (h.acc.of_book hcopy).startPrint (hs.of_book hcopy) (t := x) (n := n)
        (by rw [hat]; exact hact) (by rw [hat]; exact hn) hp
      rw [hat, ← hnum] at hstart
      exact hstart.of_book (State.startTarget_book _ x)
  have htake : CountsSound (s.takeFrame m g target) := by
    refine (countsSound_iff _).2 ⟨?_, fun x hx ho => ?_, fun c' hc' => ?_⟩
    · refine (hacc.perm ?_).of_book hbook
      simp only [State.carriers, hweb, hsheets, List.filterMap_append]
      cases ho : r.order with
      | none => simp [ho]
      | some k => simpa [ho] using List.perm_middle.symm
    · rw [hweb] at hx
      rcases List.mem_append.1 hx with hx | hx
      · exact h.kinds x hx ho
      · rw [List.mem_singleton.1 hx] at ho ⊢
        rw [horder, Option.isSome_map] at ho
        rw [hkind]
        rcases hprint ho with e | e <;> rw [e]
        · exact .inl rfl
        · exact .inr rfl
    · rw [hwork] at hc'
      cases hc'
      refine ⟨r, by rw [hweb, List.getLast?_concat], ?_, by rw [horder, htarget]⟩
      rw [hkind]
      cases c.kind <;> simp [State.frameRecord]
  exact htake.of_aside (State.startFrame_aside s m g target)

end CountsSound

theorem RestAct.keeps_countsSound {s t : State} (h : RestAct s t) (hs : BookSound s) (hc : CountsSound s) :
    CountsSound t := by
  cases h with
  | act h => exact h.keeps_countsSound hs hc
  | endsHeld active =>
    exact hc.of_sameWay (.of_orderFrame (State.setOrderState_frame s _ _))
      (hc.acc.enters (by simp) (by simp) (by simp) (State.live_of_state active (by simp)))
  | selects queued _ reserved => exact hc.selects queued reserved
  | starts _ _ pending => exact hc.starts hs pending

theorem settle_countsSound {before s : State} (hs : BookSound s) (hc : CountsSound s) :
    CountsSound (State.settle before s) :=
  ((State.settle_rests before hs).keeps (P := fun x => BookSound x ∧ CountsSound x)
    (fun _ _ a h => ⟨a.keeps_bookSound h.1, a.keeps_countsSound h.1 h.2⟩) ⟨hs, hc⟩).2

theorem repower_countsSound (s : State) : CountsSound s.repower := by
  have hfree : ∀ i, s.repower.orderAt i = Order.free := fun i => by
    show (List.replicate 64 Order.free).getD i Order.free = _
    simp only [List.getD_eq_getElem?_getD, List.getElem?_replicate]
    split <;> rfl
  refine (countsSound_iff _).2 ⟨⟨fun i => ?_, fun i k n hl => ?_, fun x hx => (by cases hx)⟩,
    fun r hr => (by cases hr), fun c hc => (by cases hc)⟩
  · rw [hfree]; exact Order.free_fine
  · rw [hfree] at hl; cases hl

end Sys2Proof.Machine

namespace Sys2Proof.Proofs

open Sys2Proof.Machine Sys2Proof.Machine.State

/-- Settles O13: each act keeps the prints accounted for, and so does each thing that coming to rest does. -/
theorem countersAlwaysBalance : Obligations.CountersAlwaysBalance := by
  unfold Obligations.CountersAlwaysBalance
  intro s t hs hc e
  exact (step_keeps (P := fun x => BookSound x ∧ CountsSound x)
    (fun _ _ h => ⟨h.1.of_book rfl, h.2.of_way rfl (.plain rfl rfl rfl)⟩)
    (fun _ _ h => ⟨h.1.of_book rfl, h.2.of_way rfl (.plain rfl rfl rfl)⟩)
    (fun _ _ _ a h => ⟨a.keeps_bookSound h.1, a.keeps_countsSound h.1 h.2⟩)
    (fun _ _ h => ⟨settle_sound h.1, settle_countsSound h.1 h.2⟩)
    (fun s => ⟨repower_bookSound s, repower_countsSound s⟩) e ⟨hs, hc⟩).2

end Sys2Proof.Proofs
end


section
/-! The bins of the orders: what stands in a bin after a change, and one record's bins (`Housed`). -/

set_option Elab.async false

namespace Sys2Proof.Machine

/-! ### Bins -/

namespace Sorter

theorem modBins_length (t : Sorter) (f : Bin → Bin) : ∀ bs : List Nat,
    (t.modBins f bs).bins.length = t.bins.length := by
  have h : ∀ (bs : List Nat) (l : List Bin),
      (bs.foldl (fun acc b => if b = 0 then acc else modAt f acc (b - 1)) l).length = l.length := by
    intro bs
    induction bs with
    | nil => exact fun _ => rfl
    | cons b bs ih =>
      intro l
      rw [List.foldl_cons, ih]
      split
      · rfl
      · exact length_modAt _ _ _
  exact fun bs => h bs t.bins

theorem bin_modAt (t : Sorter) (f : Bin → Bin) (x b : Nat) : (t.modBins f [x]).bin b =
    if b = x ∧ 1 ≤ b ∧ b ≤ t.bins.length then f (t.bin b) else t.bin b := by
  by_cases hb : b = 0
  · subst hb
    simp [bin]
  · by_cases hx : x = 0
    · rw [if_neg (by omega)]
      simp [modBins, hx]
    · simp only [bin, modBins, List.foldl_cons, List.foldl_nil, if_neg hb, if_neg hx, getD_modAt]
      by_cases e : b = x ∧ b ≤ t.bins.length
      · rw [if_pos (by omega), if_pos (by omega), e.1]
      · rw [if_neg (by omega), if_neg (by omega)]

/-- The bins of a list of distinct bins are changed, and no others. -/
theorem bin_modBins (f : Bin → Bin) : ∀ (bs : List Nat) (t : Sorter) (b : Nat), bs.Nodup →
    (t.modBins f bs).bin b = if b ∈ bs ∧ 1 ≤ b ∧ b ≤ t.bins.length then f (t.bin b) else t.bin b
  | [], t, b, _ => by simp [modBins]
  | x :: xs, t, b, h => by
    obtain ⟨hx, hxs⟩ := List.nodup_cons.1 h
    show ((t.modBins f [x]).modBins f xs).bin b = _
    rw [bin_modBins f xs _ b hxs, bin_modAt, modBins_length]
    by_cases e : b = x
    · subst e
      simp [hx]
    · simp [e]

theorem bin_zero (t : Sorter) : t.bin 0 = Bin.free := rfl

end Sorter

/-! ### The bins of one order -/

namespace Order

/-- Sums of the prints an order holds bins for. -/
def toHouse (o : Order) : Nat := o.sum fun n => n.d + n.w + n.p

/-- The bins of an order stand in the sorter as its state asks (R153, R155, R157, R159 to R161). -/
structure Housed (bin : Nat → Bin) (o : Order) : Prop where
  listed : o.live = true → ∀ b ∈ o.bins, 1 ≤ b ∧ b ≤ 24 ∧ (bin b).owner = some o.number ∧
    ((bin b).state = .complete ↔ o.state = .ready)
  once : o.bins.Nodup
  few : State.printsWith o 0 ≤ 400 → o.bins.length ≤ 4
  noBins : o.state = .opened ∨ o.state = .void → o.bins = []
  filled : o.live = true → o.state ≠ .void → total (o.bins.map fun b => (bin b).count) = o.sum (·.d)
  room : o.state = .active ∨ o.state ≠ .void ∧ 0 < o.sum (·.w) → o.toHouse ≤ 100 * o.bins.length
  quantity : o.committedState = true → State.ordered o ≤ 400
  index : o.index.isSome = o.indexRequested ∧ ∀ x, o.index = some x → x.n.q = 1 ∧ x.n.c = 0

/-- The two records are of the same order with the same prints ordered and given, and the same bins. -/
structure SameAsk (o r : Order) : Prop where
  number : r.number = o.number
  bins : r.bins = o.bins
  requested : r.indexRequested = o.indexRequested
  items : r.items.map (fun x => (x.n.q, x.n.c)) = o.items.map fun x => (x.n.q, x.n.c)
  index : r.index.map (fun x => (x.n.q, x.n.c)) = o.index.map fun x => (x.n.q, x.n.c)

namespace SameAsk

variable {o r : Order}

theorem refl (o : Order) : SameAsk o o := ⟨rfl, rfl, rfl, rfl, rfl⟩

theorem ordered (h : SameAsk o r) : State.ordered r = State.ordered o := by
  have hq : r.items.map (fun x => x.n.q) = o.items.map fun x => x.n.q := by
    have := congrArg (List.map Prod.fst) h.items
    simpa only [List.map_map, Function.comp_def] using this
  simp only [State.ordered, hq, h.requested]

theorem printsWith (h : SameAsk o r) (n : Nat) : State.printsWith r n = State.printsWith o n := by
  have hc : r.items.map (fun x => x.n.c) = o.items.map fun x => x.n.c := by
    have := congrArg (List.map Prod.snd) h.items
    simpa only [List.map_map, Function.comp_def] using this
  simp only [State.printsWith, h.ordered, hc]

theorem indexSound (h : SameAsk o r)
    (ho : o.index.isSome = o.indexRequested ∧ ∀ x, o.index = some x → x.n.q = 1 ∧ x.n.c = 0) :
    r.index.isSome = r.indexRequested ∧ ∀ x, r.index = some x → x.n.q = 1 ∧ x.n.c = 0 := by
  have hsome := congrArg Option.isSome h.index
  simp only [Option.isSome_map] at hsome
  refine ⟨by rw [hsome, ho.1, h.requested], fun x hx => ?_⟩
  have hi := h.index
  rw [hx] at hi
  obtain ⟨y, hy, e⟩ := Option.map_eq_some_iff.1 hi.symm
  obtain ⟨hq, hc⟩ := ho.2 y hy
  exact ⟨(congrArg Prod.fst e).symm.trans hq, (congrArg Prod.snd e).symm.trans hc⟩

theorem modCounts (o : Order) (k : Nat) {f : Counts → Counts} (hq : ∀ n, (f n).q = n.q) (hc : ∀ n, (f n).c = n.c) :
    SameAsk o (o.modCounts k f) := by
  simp only [Order.modCounts]
  split
  · exact ⟨rfl, rfl, rfl, rfl, by cases o.index <;> simp [hq, hc]⟩
  · refine ⟨rfl, rfl, rfl, map_modAt_of_eq _ _ (fun x => ?_) _ _, rfl⟩
    simp only [hq, hc]

theorem mapCounts (o : Order) {f : Counts → Counts} (hq : ∀ n, (f n).q = n.q) (hc : ∀ n, (f n).c = n.c) :
    SameAsk o (o.mapCounts f) :=
  ⟨rfl, rfl, rfl, by simp [Order.mapCounts, Function.comp_def, hq, hc],
    by cases h : o.index <;> simp [Order.mapCounts, h, hq, hc]⟩

end SameAsk

namespace Housed

variable {bin bin' : Nat → Bin} {o r : Order}

/-- The bins outside the order's list do not matter. -/
theorem congr_bin (h : Housed bin o) (hb : o.live = true → ∀ b ∈ o.bins, bin' b = bin b) : Housed bin' o where
  listed hl b hbm := by rw [hb hl b hbm]; exact h.listed hl b hbm
  once := h.once
  few := h.few
  noBins := h.noBins
  filled hl hv := by
    rw [← h.filled hl hv]
    exact congrArg total (List.map_congr_left fun b hbm => by rw [hb hl b hbm])
  room := h.room
  quantity := h.quantity
  index := h.index

/-- Counters that move in a record that keeps its state and delivered prints. -/
theorem counts (h : Housed bin o) (ask : SameAsk o r) (state : r.state = o.state)
    (hd : r.sum (·.d) = o.sum (·.d)) (hsum : r.toHouse ≤ o.toHouse)
    (hw : 0 < r.sum (·.w) → o.state = .active ∨ 0 < o.sum (·.w)) : Housed bin r where
  listed hl b hb := by
    rw [ask.bins] at hb
    rw [ask.number, state]
    exact h.listed (by simpa only [live, state] using hl) b hb
  once := ask.bins ▸ h.once
  few hp := by rw [ask.bins]; exact h.few (ask.printsWith 0 ▸ hp)
  noBins hs := by rw [ask.bins]; exact h.noBins (state ▸ hs)
  filled hl hv := by
    rw [ask.bins, hd]
    exact h.filled (by simpa only [live, state] using hl) (state ▸ hv)
  room hr := by
    rw [ask.bins]
    refine hsum.trans (h.room ?_)
    rw [state] at hr
    rcases hr with hr | ⟨hv, hpos⟩
    · exact .inl hr
    · exact (hw hpos).imp id fun hpos => ⟨hv, hpos⟩
  quantity hc := by rw [ask.ordered]; exact h.quantity (by simpa only [committedState, state] using hc)
  index := ask.indexSound h.index

/-- A committed record moved to another state of a committed order, its bins COMPLETE exactly when READY. -/
theorem moved (h : Housed bin o) (ho : o.committedState = true) {st : OrderState}
    (hst : ({ o with state := st } : Order).committedState = true)
    (hbin : ∀ b ∈ o.bins, (bin' b).owner = (bin b).owner ∧ (bin' b).count = (bin b).count ∧
      ((bin' b).state = .complete ↔ st = .ready))
    (hroom : st = .active → o.toHouse ≤ 100 * o.bins.length) : Housed bin' { o with state := st } where
  listed _ b hb := by
    obtain ⟨h1, h2, hown, _⟩ := h.listed (State.live_of_committed ho) b hb
    obtain ⟨hown', _, hcomplete⟩ := hbin b hb
    exact ⟨h1, h2, hown'.trans hown, hcomplete⟩
  once := h.once
  few := h.few
  noBins hs := by
    have hs : st = .opened ∨ st = .void := hs
    rcases hs with rfl | rfl <;> cases hst
  filled _ _ := by
    have hv : o.state ≠ .void := fun e => by simp [committedState, e] at ho
    have hf := h.filled (State.live_of_committed ho) hv
    refine Eq.trans ?_ hf
    exact congrArg total (List.map_congr_left fun b hb => (hbin b hb).2.1)
  room hr := by
    rcases hr with hr | ⟨_, hpos⟩
    · exact hroom hr
    · exact h.room (.inr ⟨fun e => by simp [committedState, e] at ho, hpos⟩)
  quantity _ := h.quantity ho
  index := h.index

/-- A record without bins and without prints in flight or delivered. -/
theorem bare (hbins : r.bins = []) (hw : r.sum (·.w) = 0) (hd : r.sum (·.d) = 0) (hact : r.state ≠ .active)
    (hq : r.committedState = true → State.ordered r ≤ 400)
    (hindex : r.index.isSome = r.indexRequested ∧ ∀ x, r.index = some x → x.n.q = 1 ∧ x.n.c = 0) :
    Housed bin r where
  listed _ b hb := by rw [hbins] at hb; cases hb
  once := by rw [hbins]; exact .nil
  few _ := by rw [hbins]; exact Nat.zero_le _
  noBins _ := hbins
  filled _ _ := by rw [hbins, hd]; rfl
  room hr := by
    rcases hr with hr | ⟨_, hpos⟩
    · exact absurd hr hact
    · omega
  quantity := hq
  index := hindex

theorem free : Housed bin Order.free :=
  bare rfl rfl rfl (by decide) (fun h => by cases h) ⟨rfl, fun x h => by cases h⟩

end Housed

end Order

/-! ### The invariant by bins and records -/

theorem binsSound_iff (s : State) : BinsSound s ↔ s.sorter.bins.length = 24 ∧
    (∀ b, (s.sorter.bin b).sound = true) ∧
    (∀ b n, (s.sorter.bin b).owner = some n →
      ∃ i, (s.orderAt i).live = true ∧ (s.orderAt i).number = n ∧ b ∈ (s.orderAt i).bins) ∧
    ∀ i, (s.orderAt i).Housed s.sorter.bin := by
  have hshape : (∀ b ∈ s.sorter.bins, b.sound = true) ↔ ∀ b, (s.sorter.bin b).sound = true := by
    refine ⟨fun h b => ?_, fun h x hx => ?_⟩
    · simp only [Sorter.bin]
      split
      · rfl
      · rw [List.getD_eq_getElem?_getD]
        cases e : s.sorter.bins[b - 1]? with
        | none => rfl
        | some x => exact h x (List.mem_of_getElem? e)
    · obtain ⟨k, hk⟩ := List.getElem?_of_mem hx
      have := h (k + 1)
      simpa [Sorter.bin, List.getD_eq_getElem?_getD, hk] using this
  refine ⟨fun h => ⟨h.size, hshape.1 h.shape, h.owned, fun i => ⟨h.listed i, (h.lists i).1, (h.lists i).2,
    h.noBins i, h.filled i, h.room i, h.quantity i, h.index i⟩⟩, fun ⟨hsize, hsound, howned, hi⟩ => ?_⟩
  exact ⟨hsize, hshape.2 hsound, howned, fun i => (hi i).listed, fun i => ⟨(hi i).once, (hi i).few⟩,
    fun i => (hi i).noBins, fun i => (hi i).filled, fun i => (hi i).room, fun i => (hi i).quantity,
    fun i => (hi i).index⟩

namespace BinsSound

variable {s t : State}

theorem housed (h : BinsSound s) (i : Nat) : (s.orderAt i).Housed s.sorter.bin :=
  ((binsSound_iff s).1 h).2.2.2 i

theorem sound (h : BinsSound s) (b : Nat) : (s.sorter.bin b).sound = true := ((binsSound_iff s).1 h).2.1 b

/-- Records and bins are all it reads. -/
theorem of_same (h : BinsSound s) (hr : t.book.records = s.book.records) (hb : t.sorter.bins = s.sorter.bins) :
    BinsSound t := by
  have hat := State.orderAt_congr hr
  have hbin : t.sorter.bin = s.sorter.bin := by funext b; simp only [Sorter.bin, hb]
  rw [binsSound_iff] at h ⊢
  simpa only [hb, hbin, hat] using h

/-- Records change that keep number and bins, and no bin does. -/
theorem of_records (h : BinsSound s) (hb : t.sorter.bins = s.sorter.bins)
    (hrec : ∀ i, (t.orderAt i).live = (s.orderAt i).live ∧ (t.orderAt i).number = (s.orderAt i).number ∧
      (t.orderAt i).bins = (s.orderAt i).bins ∧ (t.orderAt i).Housed s.sorter.bin) : BinsSound t := by
  have hbin : t.sorter.bin = s.sorter.bin := by funext b; simp only [Sorter.bin, hb]
  rw [binsSound_iff] at h ⊢
  obtain ⟨hsize, hsound, howned, _⟩ := h
  rw [hb, hbin]
  refine ⟨hsize, hsound, fun b n hn => ?_, fun i => (hrec i).2.2.2⟩
  obtain ⟨i, hl, hnum, hm⟩ := howned b n hn
  obtain ⟨hl', hnum', hbins, _⟩ := hrec i
  exact ⟨i, hl' ▸ hl, hnum'.trans hnum, hbins ▸ hm⟩

/-- One record changes, and with it bins that it owns or nobody does (the bins of `T`). -/
theorem of_change (h : BinsSound s) (hs : BookSound s) (i : Nat) (T : Nat → Prop)
    (hsize : t.sorter.bins.length = s.sorter.bins.length)
    (hother : ∀ j, j ≠ i → t.orderAt j = s.orderAt j)
    (hsame : ∀ b, ¬T b → t.sorter.bin b = s.sorter.bin b)
    (howner : ∀ b, T b → (s.sorter.bin b).owner = none ∨
      (s.orderAt i).live = true ∧ (s.sorter.bin b).owner = some (s.orderAt i).number)
    (hsound : ∀ b, T b → (t.sorter.bin b).sound = true)
    (hnew : ∀ b n, T b → (t.sorter.bin b).owner = some n →
      (t.orderAt i).live = true ∧ (t.orderAt i).number = n ∧ b ∈ (t.orderAt i).bins)
    (hkeep : (s.orderAt i).live = true → ∀ b ∈ (s.orderAt i).bins, ¬T b →
      (t.orderAt i).live = true ∧ (t.orderAt i).number = (s.orderAt i).number ∧ b ∈ (t.orderAt i).bins)
    (hhoused : (t.orderAt i).Housed t.sorter.bin) : BinsSound t := by
  have h' := (binsSound_iff s).1 h
  obtain ⟨hlen, hshape, howned, hi⟩ := h'
  refine (binsSound_iff t).2 ⟨hsize.trans hlen, fun b => ?_, fun b n hn => ?_, fun j => ?_⟩
  · by_cases hT : T b
    · exact hsound b hT
    · rw [hsame b hT]; exact hshape b
  · by_cases hT : T b
    · exact ⟨i, hnew b n hT hn⟩
    · rw [hsame b hT] at hn
      obtain ⟨j, hl, hnum, hm⟩ := howned b n hn
      by_cases e : j = i
      · subst e
        obtain ⟨hl', hnum', hm'⟩ := hkeep hl b hm hT
        exact ⟨j, hl', hnum'.trans hnum, hm'⟩
      · exact ⟨j, by rw [hother j e]; exact ⟨hl, hnum, hm⟩⟩
  · by_cases e : j = i
    · rw [e]; exact hhoused
    · rw [hother j e]
      refine (hi j).congr_bin fun hl b hb => hsame b fun hT => ?_
      obtain ⟨_, _, hown, _⟩ := (hi j).listed hl b hb
      rcases howner b hT with hnone | ⟨hli, hown'⟩
      · rw [hown] at hnone; cases hnone
      · rw [hown] at hown'
        exact e (hs.distinct j i hl hli (Option.some.inj hown'))

end BinsSound

end Sys2Proof.Machine
end


section
/-! The bins of the orders under each move of a record's state, its counters and its bins. -/

set_option Elab.async false

namespace Sys2Proof.Machine

/-! ### One bin -/

namespace Bin

variable {b : Bin}

theorem count_le (h : b.sound = true) : b.count ≤ 100 := by
  obtain ⟨st, owner, n⟩ := b
  cases st <;> simp [sound, within] at h ⊢ <;> omega

theorem complete_sound (h : b.sound = true) (ho : b.owner.isSome = true) :
    ({ b with state := .complete } : Bin).sound = true := by
  simp [sound, ho, count_le h]

theorem fill_sound (hc : b.count < 100) (ho : b.owner.isSome = true) : (State.fill b).sound = true := by
  simp [sound, State.fill, within, ho]
  omega

theorem give_sound (h : b.sound = true) : b.give.sound = true := by
  have := count_le h
  simp only [give]
  split
  · rfl
  · simp [sound, within]; omega

theorem give_owner (b : Bin) : b.give.owner = none := by
  simp only [give]
  split <;> rfl

theorem reopen_sound (h : b.sound = true) : b.reopen.sound = true := by
  have := count_le h
  simp only [reopen]
  split
  · next hc =>
    have ho : b.owner.isSome = true := by
      simp only [beq_iff_eq] at hc
      simp only [sound, hc, Bool.and_eq_true] at h
      exact h.1
    split <;> simp [sound, within, ho] <;> omega
  · exact h

theorem reopen_rest (b : Bin) : b.reopen.owner = b.owner ∧ b.reopen.count = b.count ∧
    b.reopen.state ≠ .complete := by
  simp only [reopen]
  split
  · refine ⟨rfl, rfl, ?_⟩
    dsimp only
    split <;> simp
  · next hc => exact ⟨rfl, rfl, by simpa using hc⟩

theorem owner_of_free (h : b.sound = true) (hf : b.state = .free) : b.owner = none := by
  simp only [sound, hf, Bool.and_eq_true, Option.isNone_iff_eq_none] at h
  exact h.1

theorem owner_of_purge (h : b.sound = true) (hf : b.state = .purge) : b.owner = none := by
  simp only [sound, hf, Bool.and_eq_true, Option.isNone_iff_eq_none] at h
  exact h.1

end Bin

/-! ### Sums of one record -/

namespace Order

theorem modCounts_of_none {o : Order} {k : Nat} (f : Counts → Counts) (h : o.countsAt k = none) :
    o.modCounts k f = o := by
  have hbeyond : ∀ (l : List Item) (j : Nat) (g : Item → Item), l[j]? = none → modAt g l j = l := by
    intro l
    induction l with
    | nil => exact fun _ _ _ => rfl
    | cons x xs ih =>
      intro j g hj
      cases j with
      | zero => simp at hj
      | succ j => exact congrArg (x :: ·) (ih j g (by simpa using hj))
  simp only [countsAt] at h
  simp only [modCounts]
  split
  · next hk =>
    rw [if_pos hk, Option.map_eq_none_iff] at h
    obtain ⟨_, _, _, _, _, _, _, _, _, index, _, _, _, _, _, _⟩ := o
    cases h
    rfl
  · next hk =>
    rw [if_neg hk, Option.map_eq_none_iff] at h
    rw [hbeyond _ _ _ h]

/-- The sum of a figure that the move leaves in every counter. -/
theorem sum_modCounts_eq (o : Order) (k : Nat) {f : Counts → Counts} {g : Counts → Nat}
    (h : ∀ n, o.countsAt k = some n → g (f n) = g n) : (o.modCounts k f).sum g = o.sum g := by
  cases hn : o.countsAt k with
  | none => rw [modCounts_of_none f hn]
  | some n =>
    have := sum_modCounts o k f g n hn
    have := h n hn
    omega

/-- The sum of a figure that the move does not raise. -/
theorem sum_modCounts_le (o : Order) (k : Nat) {f : Counts → Counts} {g : Counts → Nat}
    (h : ∀ n, o.countsAt k = some n → g (f n) ≤ g n) : (o.modCounts k f).sum g ≤ o.sum g := by
  cases hn : o.countsAt k with
  | none => rw [modCounts_of_none f hn]
  | some n =>
    have := sum_modCounts o k f g n hn
    have := h n hn
    omega

theorem sum_mapCounts_eq (o : Order) {f : Counts → Counts} {g : Counts → Nat} (h : ∀ n, g (f n) = g n) :
    (o.mapCounts f).sum g = o.sum g := by
  have hc : (o.mapCounts f).counts.map g = o.counts.map g := by
    simp only [counts, mapCounts, List.map_append, List.map_map]
    cases o.index <;> simp [Function.comp_def, h]
  simp only [sum, hc]

/-- A print in flight is one of the sum. -/
theorem sum_pos_of_countsAt {o : Order} {k : Nat} {n : Counts} {g : Counts → Nat}
    (hn : o.countsAt k = some n) (hpos : 0 < g n) : 0 < o.sum g :=
  Nat.pos_of_ne_zero fun e => by
    have := sum_eq_zero.1 e n (mem_counts_of_countsAt hn)
    omega

namespace Housed

variable {bin : Nat → Bin} {o r : Order}

/-- One item's counters moved in a record that keeps its state. -/
theorem modCounts (h : Housed bin o) (k : Nat) {f : Counts → Counts} (hq : ∀ n, (f n).q = n.q)
    (hc : ∀ n, (f n).c = n.c) (hd : ∀ n, (f n).d = n.d)
    (hsum : ∀ n, o.countsAt k = some n → (f n).w + (f n).p ≤ n.w + n.p)
    (hw : o.state = .active ∨ ∀ n, o.countsAt k = some n → (f n).w ≤ n.w) : Housed bin (o.modCounts k f) := by
  refine h.counts (.modCounts o k hq hc) (modCounts_rest o k f).1 (sum_modCounts_eq o k fun n _ => hd n)
    (sum_modCounts_le o k fun n hn => ?_) fun hpos => ?_
  · have := hsum n hn
    have := hd n
    omega
  · rcases hw with hw | hw
    · exact .inl hw
    · exact .inr (lt_of_lt_of_le hpos (sum_modCounts_le o k hw))

/-- The spoil counts of a record changed. -/
theorem mapCounts (h : Housed bin o) {f : Counts → Counts} (hq : ∀ n, (f n).q = n.q) (hc : ∀ n, (f n).c = n.c)
    (hd : ∀ n, (f n).d = n.d) (hw : ∀ n, (f n).w = n.w) (hp : ∀ n, (f n).p = n.p) :
    Housed bin (o.mapCounts f) := by
  refine h.counts (.mapCounts o hq hc) rfl (sum_mapCounts_eq o hd) (le_of_eq (sum_mapCounts_eq o fun n => ?_))
    fun hpos => .inr ?_
  · rw [hd, hw, hp]
  · rwa [sum_mapCounts_eq o hw] at hpos

/-- What no bin rests on: holds, settlement, payment, inspect mark. -/
theorem of_ledger (h : Housed bin o) (e : r.ledger = o.ledger) : Housed bin r := by
  have ho : Housed bin o.ledger :=
    ⟨h.listed, h.once, h.few, h.noBins, h.filled, h.room, h.quantity, h.index⟩
  rw [← e] at ho
  exact ⟨ho.listed, ho.once, ho.few, ho.noBins, ho.filled, ho.room, ho.quantity, ho.index⟩

/-- An order of which no print was started, without bins. -/
theorem fresh (hf : r.Fine) (hs : r.started = false) (hbins : r.bins = []) (hact : r.state ≠ .active)
    (hq : r.committedState = true → State.ordered r ≤ 400)
    (hindex : r.index.isSome = r.indexRequested ∧ ∀ x, r.index = some x → x.n.q = 1 ∧ x.n.c = 0) :
    Housed bin r :=
  bare hbins (hf.fresh hs).1 (hf.fresh hs).2 hact hq hindex

/-- A VOID order holds no bins. -/
theorem void (hst : r.state = .void) (hbins : r.bins = [])
    (hindex : r.index.isSome = r.indexRequested ∧ ∀ x, r.index = some x → x.n.q = 1 ∧ x.n.c = 0) :
    Housed bin r where
  listed _ b hb := by rw [hbins] at hb; cases hb
  once := by rw [hbins]; exact .nil
  few _ := by rw [hbins]; exact Nat.zero_le _
  noBins _ := hbins
  filled _ hv := absurd hst hv
  room hr := by
    rcases hr with hr | ⟨hv, _⟩
    · rw [hst] at hr; cases hr
    · exact absurd hst hv
  quantity hc := by simp [committedState, hst] at hc
  index := hindex

end Housed

end Order

/-! ### The invariant under moves of one record -/

theorem State.setOrderState_sorter (s : State) (i : Nat) (st : OrderState) : (s.setOrderState i st).sorter =
    if st = .ready then s.sorter.modBins (fun b => { b with state := .complete }) (s.orderAt i).bins
    else s.sorter := by
  have hbins : ((s.modOrder i fun o => { o with state := st }).orderAt i).bins = (s.orderAt i).bins := by
    rw [orderAt_modOrder]
    split <;> rfl
  have hleave : ∀ (t : State) old, (t.leaveState i old).sorter = t.sorter ∧
      (t.leaveState i old).book.records = t.book.records := fun t old => by
    cases old <;> exact ⟨rfl, rfl⟩
  have hat : ((s.modOrder i fun o => { o with state := st }).leaveState i (s.orderAt i).state).orderAt i =
      (s.modOrder i fun o => { o with state := st }).orderAt i := orderAt_congr (hleave _ _).2 i
  simp only [setOrderState]
  cases st
  case ready =>
    simp only [enterState, completeBins_sorter, raise_sorter, (hleave _ _).1, modOrder_sorter, if_true]
    show Sorter.modBins _ _ (State.orderAt (State.leaveState _ _ _) i).bins = _
    rw [hat, hbins]
  all_goals exact (hleave _ _).1

theorem State.freeOrder_sorter (s : State) (i : Nat) : (s.freeOrder i).sorter = s.sorter :=
  (State.setOrderState_sorter s i .free).trans (if_neg (by simp))

theorem State.freeOrder_orderAt (s : State) {i : Nat} (j : Nat) (hi : i < s.book.records.length) :
    (s.freeOrder i).orderAt j = if j = i then Order.free else s.orderAt j := by
  rw [State.orderAt_congr (s := s.modOrder i fun _ => Order.free) (State.freeOrder_records s i) j,
    State.orderAt_modOrder]
  by_cases e : j = i
  · rw [if_pos ⟨e, hi⟩, if_pos e]
  · rw [if_neg fun k => e k.1, if_neg e]

namespace BinsSound

variable {s t : State}

/-- A record changed that keeps its number and its bins. -/
theorem modOrder (h : BinsSound s) (i : Nat) (f : Order → Order)
    (hf : (f (s.orderAt i)).live = (s.orderAt i).live ∧ (f (s.orderAt i)).number = (s.orderAt i).number ∧
      (f (s.orderAt i)).bins = (s.orderAt i).bins ∧ (f (s.orderAt i)).Housed s.sorter.bin) :
    BinsSound (s.modOrder i f) := by
  refine h.of_records rfl fun j => ?_
  rw [State.orderAt_modOrder]
  split
  · next e => rw [e.1]; exact hf
  · exact ⟨rfl, rfl, rfl, h.housed j⟩

/-- What no bin rests on changed in a record. -/
theorem notes (h : BinsSound s) (i : Nat) {f : Order → Order} (same : ∀ o, (f o).ledger = o.ledger) :
    BinsSound (s.modOrder i f) := by
  have hl := same (s.orderAt i)
  have hkept : ∀ {α : Type} (g : Order → α), g (f (s.orderAt i)).ledger = g (s.orderAt i).ledger :=
    fun g => congrArg g hl
  exact h.modOrder i f ⟨hkept Order.live, hkept Order.number, hkept Order.bins, (h.housed i).of_ledger hl⟩

theorem moveCounts (h : BinsSound s) (i k : Nat) {f : Counts → Counts}
    (hf : ((s.orderAt i).modCounts k f).Housed s.sorter.bin) : BinsSound (s.moveCounts i k f) := by
  obtain ⟨_, _, hbins, hnumber, _⟩ := modCounts_rest (s.orderAt i) k f
  exact h.modOrder i _ ⟨Order.modCounts_live _ _ _, hnumber, hbins, hf⟩

theorem bin_listed (h : BinsSound s) {i : Nat} (hl : (s.orderAt i).live = true) (f : Bin → Bin) (b : Nat) :
    (s.sorter.modBins f (s.orderAt i).bins).bin b =
      if b ∈ (s.orderAt i).bins then f (s.sorter.bin b) else s.sorter.bin b := by
  rw [Sorter.bin_modBins f _ _ _ (h.housed i).once]
  by_cases hb : b ∈ (s.orderAt i).bins
  · obtain ⟨h1, h2, _⟩ := h.listed i hl b hb
    rw [if_pos ⟨hb, h1, by rw [h.size]; exact h2⟩, if_pos hb]
  · rw [if_neg fun e => hb e.1, if_neg hb]

/-- A committed order that is not READY moves to another committed state. -/
theorem enters (h : BinsSound s) (hs : BookSound s) {i : Nat} {st : OrderState}
    (ho : (s.orderAt i).committedState = true) (hready : (s.orderAt i).state ≠ .ready)
    (hst : ({ s.orderAt i with state := st } : Order).committedState = true)
    (hroom : st = .active → (s.orderAt i).toHouse ≤ 100 * (s.orderAt i).bins.length) :
    BinsSound (s.setOrderState i st) := by
  have hl := State.live_of_committed ho
  have hi := State.lt_of_live hl
  have hat : (s.setOrderState i st).orderAt i = { s.orderAt i with state := st } :=
    State.setOrderState_same s st hi
  have hl' := State.live_of_committed hst
  have hlisted := h.listed i hl
  by_cases e : st = .ready
  · have hbin : ∀ b, (s.setOrderState i st).sorter.bin b = if b ∈ (s.orderAt i).bins then
        { s.sorter.bin b with state := .complete } else s.sorter.bin b := fun b => by
      rw [State.setOrderState_sorter, if_pos e, h.bin_listed hl]
    refine h.of_change hs i (· ∈ (s.orderAt i).bins) ?_ (fun j hj => State.setOrderState_other s st hj)
      (fun b hb => by rw [hbin, if_neg hb]) (fun b hb => .inr ⟨hl, (hlisted b hb).2.2.1⟩) (fun b hb => ?_)
      (fun b n hb hn => ?_) (fun _ b hb hT => absurd hb hT) ?_
    · rw [State.setOrderState_sorter, if_pos e, Sorter.modBins_length]
    · rw [hbin, if_pos hb]
      exact Bin.complete_sound (h.sound b) (by rw [(hlisted b hb).2.2.1]; rfl)
    · rw [hbin, if_pos hb] at hn
      rw [hat]
      exact ⟨hl', Option.some.inj ((hlisted b hb).2.2.1.symm.trans hn), hb⟩
    · rw [hat]
      refine (h.housed i).moved ho hst (fun b hb => ?_) hroom
      rw [hbin, if_pos hb]
      exact ⟨rfl, rfl, ⟨fun _ => e, fun _ => rfl⟩⟩
  · have hsorter : (s.setOrderState i st).sorter = s.sorter := by rw [State.setOrderState_sorter, if_neg e]
    refine h.of_change hs i (fun _ => False) (by rw [hsorter])
      (fun j hj => State.setOrderState_other s st hj) (fun b _ => by rw [hsorter]) (fun _ hT => hT.elim)
      (fun _ hT => hT.elim) (fun _ _ hT => hT.elim) (fun _ b hb _ => by rw [hat]; exact ⟨hl', rfl, hb⟩) ?_
    rw [hat, hsorter]
    refine (h.housed i).moved ho hst (fun b hb => ⟨rfl, rfl, ?_⟩) hroom
    exact ⟨fun k => absurd ((hlisted b hb).2.2.2.1 k) hready, fun k => absurd k e⟩

/-- An order gives its bins up, each left without an owner. -/
theorem givesUp (h : BinsSound s) (hs : BookSound s) {i : Nat} (hl : (s.orderAt i).live = true) {f : Bin → Bin}
    (hf : ∀ b, b.sound = true → (f b).sound = true ∧ (f b).owner = none)
    (hother : ∀ j, j ≠ i → t.orderAt j = s.orderAt j)
    (hbins : t.sorter = s.sorter.modBins f (s.orderAt i).bins) (hr : (t.orderAt i).Housed t.sorter.bin) :
    BinsSound t := by
  have hbin : ∀ b, t.sorter.bin b = if b ∈ (s.orderAt i).bins then f (s.sorter.bin b) else s.sorter.bin b :=
    fun b => by rw [hbins, h.bin_listed hl]
  refine h.of_change hs i (· ∈ (s.orderAt i).bins) (by rw [hbins, Sorter.modBins_length]) hother
    (fun b hb => by rw [hbin, if_neg hb]) (fun b hb => .inr ⟨hl, (h.listed i hl b hb).2.2.1⟩) (fun b hb => ?_)
    (fun b n hb hn => ?_) (fun _ b hb hT => absurd hb hT) hr
  · rw [hbin, if_pos hb]; exact (hf _ (h.sound b)).1
  · rw [hbin, if_pos hb, (hf _ (h.sound b)).2] at hn; cases hn

/-- An order without bins is freed. -/
theorem frees (h : BinsSound s) (hs : BookSound s) {i : Nat} (hl : (s.orderAt i).live = true)
    (hb : (s.orderAt i).bins = []) : BinsSound (s.freeOrder i) := by
  have hi := State.lt_of_live hl
  refine h.givesUp hs hl (f := fun _ => Bin.free) (fun _ _ => ⟨rfl, rfl⟩) (fun j hj => ?_) ?_ ?_
  · rw [State.freeOrder_orderAt s j hi, if_neg hj]
  · rw [State.freeOrder_sorter, hb]; rfl
  · rw [State.freeOrder_orderAt s i hi, if_pos rfl]; exact .free

end BinsSound

end Sys2Proof.Machine
end


section
/-! The bins of the orders under the ways a print ends, the requests, and what coming to rest does. -/

set_option Elab.async false

namespace Sys2Proof.Machine

theorem Order.outsideHold_iff (o : Order) : o.outsideHold = false ↔
    o.state = .queued ∨ o.state = .active ∨ o.state = .held ∨ o.state = .draining := by
  simp only [Order.outsideHold]
  cases o.state <;> simp

theorem Order.committedState_of_state {o : Order} (h : o.state = .queued ∨ o.state = .active ∨
    o.state = .held ∨ o.state = .draining) : o.committedState = true ∧ o.state ≠ .ready := by
  simp only [Order.committedState]
  rcases h with h | h | h | h <;> simp [h]

/-- The print in flight that ends is one of its order's (R9, R10). -/
theorem Accounted.print {s : State} {l : List OrderItem} {x : OrderItem} (h : Accounted s (x :: l))
    (hs : BookSound s) {i : Nat} (hi : s.findLive x.number = some i) :
    (s.orderAt i).live = true ∧ ∃ n, (s.orderAt i).countsAt x.item = some n ∧ 0 < n.w := by
  obtain ⟨hlive, hnum⟩ := State.findLive_some hi
  obtain ⟨j, n, hjl, hjn, hn, _, hpos⟩ := h.owner (List.mem_cons_self ..)
  obtain rfl : j = i := hs.distinct j i hjl hlive (hjn.trans hnum.symm)
  exact ⟨hlive, n, hn, hpos⟩

namespace BinsSound

variable {s : State}

/-- An order moves to the state that its counters ask for. -/
theorem byCounts (h : BinsSound s) (hs : BookSound s) {i : Nat}
    (hst : (s.orderAt i).state = .queued ∨ (s.orderAt i).state = .active ∨ (s.orderAt i).state = .held ∨
      (s.orderAt i).state = .draining) : BinsSound (s.setOrderState i (State.stateByCounts (s.orderAt i))) := by
  obtain ⟨ho, hready⟩ := Order.committedState_of_state hst
  refine h.enters hs ho hready ?_ fun e => ?_
  · rcases Order.stateByCounts_cases (s.orderAt i) with e | e | ⟨e, _⟩ <;> rw [e] <;> rfl
  · rcases Order.stateByCounts_cases (s.orderAt i) with k | k | ⟨k, _⟩ <;> rw [k] at e <;> cases e

theorem toState (h : BinsSound s) (hs : BookSound s) {i : Nat} {st : OrderState}
    (hold : (s.orderAt i).state = .queued ∨ (s.orderAt i).state = .active ∨ (s.orderAt i).state = .held ∨
      (s.orderAt i).state = .draining)
    (hst : st = .queued ∨ st = .held ∨ st = .draining ∨ st = .ready) : BinsSound (s.setOrderState i st) := by
  obtain ⟨ho, hready⟩ := Order.committedState_of_state hold
  refine h.enters hs ho hready ?_ fun e => ?_
  · rcases hst with e | e | e | e <;> rw [e] <;> rfl
  · rcases hst with k | k | k | k <;> rw [k] at e <;> cases e

theorem addHold (h : BinsSound s) (hs : BookSound s) (i : Nat) (r : Hold) : BinsSound (s.addHold i r) := by
  have hmod : BinsSound (s.modOrder i fun o => { o with holds := o.holds.add r }) := h.notes i fun _ => rfl
  have hsm : BookSound (s.modOrder i fun o => { o with holds := o.holds.add r }) := hs.modOrder i _ fun _ => rfl
  simp only [State.addHold]
  split
  · exact h
  · split
    · next hact =>
      refine hmod.toState hsm ?_ (.inr (.inl rfl))
      simp only [State.holdActs] at hact
      split at hact
      · next e => exact .inl e
      · next e => exact .inr (.inr (.inr e))
      · next e => exact .inr (.inl e)
      · cases hact
    · exact hmod

theorem leaveHeld (h : BinsSound s) (hs : BookSound s) (i : Nat) : BinsSound (s.leaveHeld i) := by
  rcases State.leaveHeld_cases s i with e | ⟨hst, e⟩ <;> rw [e]
  · exact h
  · exact h.byCounts hs (.inr (.inr (.inl hst)))

theorem releasePaper1 (h : BinsSound s) (hs : BookSound s) (i : Nat) : BinsSound (s.releasePaper1 i) := by
  simp only [State.releasePaper1]
  split
  · refine BinsSound.leaveHeld (h.notes i (f := fun o => { o with holds.paper := false }) fun _ => rfl) ?_ i
    exact hs.modOrder i _ fun _ => rfl
  · exact h

theorem release (h : BinsSound s) (hs : BookSound s) (i : Nat) (p : Port) :
    BinsSound ((s.modOrder i fun o => o.release p).leaveHeld i) := by
  have hkey : ∀ o : Order, (o.release p).key = o.key := fun o => by
    simp only [Order.release]; split <;> rfl
  refine BinsSound.leaveHeld (h.modOrder i _ ?_) (hs.modOrder i _ hkey) i
  simp only [Order.release]
  split
  · exact ⟨rfl, rfl, rfl, (h.housed i).of_ledger rfl⟩
  · exact ⟨rfl, rfl, rfl, ((h.housed i).of_ledger (r := { s.orderAt i with
      holds.operator := false, holds.fault := false }) rfl).mapCounts (fun _ => rfl) (fun _ => rfl)
      (fun _ => rfl) (fun _ => rfl) fun _ => rfl⟩

theorem afterMove (h : BinsSound s) (hs : BookSound s) (i : Nat) : BinsSound (s.afterMove i) := by
  simp only [State.afterMove]
  split
  · next hst =>
    split
    · exact h.toState hs (.inr (.inr (.inr hst))) (.inr (.inr (.inr rfl)))
    · exact h
  · next hst =>
    split
    · exact h.frees hs (State.live_of_state hst (by simp)) (h.noBins i (.inr hst))
    · exact h
  · exact h

/-! ### The ways a print in flight ends -/

theorem discard (h : BinsSound s) (hs : BookSound s) (i k : Nat) : BinsSound (s.discard i k) := by
  refine BinsSound.afterMove (h.moveCounts i k ?_) (State.moveCounts_sound hs i k _) i
  refine (h.housed i).modCounts k (fun _ => rfl) (fun _ => rfl) (fun _ => rfl) (fun n _ => ?_)
    (.inr fun n _ => ?_) <;> dsimp only <;> omega

theorem spoilLive (h : BinsSound s) (hs : BookSound s) {i k : Nat} {n : Counts}
    (hn : (s.orderAt i).countsAt k = some n) (hw : 0 < n.w) : BinsSound (s.spoilLive i k) := by
  have hmove : BinsSound (s.moveCounts i k fun n =>
      { n with w := n.w - 1, p := n.p + 1, spoil := min 4 (n.spoil + 1) }) := by
    refine h.moveCounts i k ((h.housed i).modCounts k (fun _ => rfl) (fun _ => rfl) (fun _ => rfl)
      (fun m hm => ?_) (.inr fun m _ => ?_))
    · rw [hn] at hm
      cases hm
      dsimp only
      omega
    · dsimp only
      omega
  have hsm := State.moveCounts_sound hs i k fun n =>
    { n with w := n.w - 1, p := n.p + 1, spoil := min 4 (n.spoil + 1) }
  simp only [State.spoilLive]
  split
  · exact hmove.addHold hsm i .fault
  · split
    · next hst => exact hmove.toState hsm (.inr (.inr (.inr (by simpa using hst)))) (.inl rfl)
    · exact hmove

theorem spoil {x : OrderItem} {l : List OrderItem} (h : BinsSound s) (hs : BookSound s)
    (hacc : Accounted s (x :: l)) : BinsSound (s.spoil x) := by
  simp only [State.spoil]
  split
  · exact h
  · next i hi =>
    obtain ⟨_, n, hn, hw⟩ := hacc.print hs hi
    split
    · exact h.discard hs i x.item
    · exact h.spoilLive hs hn hw

theorem spoil? {x : Option OrderItem} {l : List OrderItem} (h : BinsSound s) (hs : BookSound s)
    (hacc : Accounted s (x.toList ++ l)) : BinsSound (s.spoil? x) := by
  cases x with
  | none => exact h
  | some x => exact h.spoil hs hacc

theorem spoils {l : List OrderItem} : ∀ (xs : List OrderItem) {s : State}, BinsSound s → BookSound s →
    Accounted s (xs ++ l) → BinsSound (xs.foldl State.spoil s)
  | [], _, h, _, _ => h
  | x :: xs, _, h, hs, hacc =>
    spoils xs (h.spoil hs hacc) (State.spoil_sound hs x) (hacc.spoil hs)

/-! ### A delivery -/

theorem total_map_raised {f g : Nat → Nat} {b : Nat} (hb : g b = f b + 1) (ho : ∀ x, x ≠ b → g x = f x) :
    ∀ l : List Nat, l.Nodup → b ∈ l → total (l.map g) = total (l.map f) + 1
  | x :: xs, hn, hm => by
    obtain ⟨hx, hn⟩ := List.nodup_cons.1 hn
    simp only [List.map_cons, total_eq_sum, List.sum_cons]
    by_cases e : x = b
    · subst e
      have hrest : xs.map g = xs.map f := List.map_congr_left fun y hy => ho y fun e => hx (e ▸ hy)
      rw [hrest, hb]
      omega
    · have ih := total_map_raised hb ho xs hn ((List.mem_cons.1 hm).resolve_left (Ne.symm e))
      rw [total_eq_sum, total_eq_sum] at ih
      rw [ih, ho x e]
      omega

/-- A sheet in a bin of its order: the bin's count and the delivered prints rise together. -/
theorem fills (h : BinsSound s) (hs : BookSound s) {i k b : Nat} {n : Counts}
    (hl : (s.orderAt i).live = true) (hst : (s.orderAt i).state ≠ .ready)
    (hn : (s.orderAt i).countsAt k = some n) (hw : 0 < n.w)
    (hb : b ∈ (s.orderAt i).bins) (hcount : (s.sorter.bin b).count < 100) :
    BinsSound ((({ s with sorter := s.sorter.modBins State.fill [b] } : State).steer b).moveCounts i k fun n =>
      { n with w := n.w - 1, d := n.d + 1 }) := by
  obtain ⟨h1, h24, hown, hcomplete⟩ := h.listed i hl b hb
  obtain ⟨hstate, _, hbins, hnumber, _⟩ :=
    modCounts_rest (s.orderAt i) k fun n => { n with w := n.w - 1, d := n.d + 1 }
  have hbin : ∀ x, (s.sorter.modBins State.fill [b]).bin x =
      if x = b then State.fill (s.sorter.bin b) else s.sorter.bin x := fun x => by
    rw [Sorter.bin_modAt, h.size]
    by_cases e : x = b
    · rw [if_pos ⟨e, by omega⟩, if_pos e, e]
    · rw [if_neg fun k => e k.1, if_neg e]
  have hat : ∀ j, ((({ s with sorter := s.sorter.modBins State.fill [b] } : State).steer b).moveCounts i k
      fun n => { n with w := n.w - 1, d := n.d + 1 }).orderAt j = if j = i then
        (s.orderAt i).modCounts k fun n => { n with w := n.w - 1, d := n.d + 1 } else s.orderAt j := fun j => by
    refine (State.orderAt_modOrder _ i j _).trans ?_
    by_cases e : j = i
    · rw [if_pos ⟨e, State.lt_of_live hl⟩, if_pos e]; rfl
    · rw [if_neg fun k => e k.1, if_neg e]; rfl
  have hd := sum_modCounts (s.orderAt i) k (fun n => { n with w := n.w - 1, d := n.d + 1 }) (·.d) n hn
  have hsum := sum_modCounts (s.orderAt i) k (fun n => { n with w := n.w - 1, d := n.d + 1 })
    (fun n => n.d + n.w + n.p) n hn
  have ask := Order.SameAsk.modCounts (s.orderAt i) k (f := fun n => { n with w := n.w - 1, d := n.d + 1 })
    (fun _ => rfl) fun _ => rfl
  have hold := h.housed i
  have hroom : (s.orderAt i).state ≠ .void → (s.orderAt i).toHouse ≤ 100 * (s.orderAt i).bins.length :=
    fun hv => hold.room (.inr ⟨hv, Order.sum_pos_of_countsAt hn hw⟩)
  have hvoid : (s.orderAt i).state ≠ .void := fun e => by
    rw [h.noBins i (.inr e)] at hb; cases hb
  refine h.of_change hs i (· = b) (Sorter.modBins_length _ _ _) (fun j hj => by rw [hat, if_neg hj])
    (fun x hx => (hbin x).trans (if_neg hx)) (fun x e => .inr ⟨hl, e ▸ hown⟩) (fun x e => ?_)
    (fun x m e hm => ?_) (fun _ x hx _ => ?_) ?_
  · subst e
    refine (congrArg Bin.sound ((hbin x).trans (if_pos rfl))).trans ?_
    exact Bin.fill_sound hcount (by rw [hown]; rfl)
  · subst e
    have hm' : (s.sorter.bin x).owner = some m :=
      (congrArg Bin.owner ((hbin x).trans (if_pos rfl))).symm.trans hm
    rw [hat, if_pos rfl, Order.modCounts_live, hnumber, hbins]
    exact ⟨hl, Option.some.inj (hown.symm.trans hm'), hb⟩
  · rw [hat, if_pos rfl, Order.modCounts_live, hnumber, hbins]
    exact ⟨hl, rfl, hx⟩
  · rw [hat, if_pos rfl]
    show Order.Housed (s.sorter.modBins State.fill [b]).bin _
    refine ⟨fun _ x hx => ?_, by rw [hbins]; exact hold.once, fun hp => ?_, fun hs' => ?_, fun _ _ => ?_,
      fun _ => ?_, fun hc => ?_, ask.indexSound hold.index⟩
    · rw [hbins] at hx
      obtain ⟨x1, x2, hxown, hxstate⟩ := h.listed i hl x hx
      rw [hbin, hnumber, hstate]
      split
      · next e =>
        subst e
        exact ⟨x1, x2, hxown, ⟨fun k => (by cases k), fun k => absurd k hst⟩⟩
      · exact ⟨x1, x2, hxown, hxstate⟩
    · rw [hbins]; exact hold.few (ask.printsWith 0 ▸ hp)
    · rw [hbins]; exact hold.noBins (hstate ▸ hs')
    · rw [hbins, total_map_raised (f := fun x => (s.sorter.bin x).count)
        (by rw [hbin, if_pos rfl]; rfl) (fun x hx => by rw [hbin, if_neg hx]) _ hold.once hb,
        hold.filled hl hvoid]
      dsimp only at hd
      omega
    · rw [hbins]
      refine le_trans (le_of_eq ?_) (hroom hvoid)
      simp only [Order.toHouse]
      dsimp only at hsum
      omega
    · rw [ask.ordered]
      exact hold.quantity (by simpa only [Order.committedState, hstate] using hc)

theorem deliver {x : OrderItem} {l : List OrderItem} (h : BinsSound s) (hs : BookSound s)
    (hacc : Accounted s (x :: l)) {i b : Nat} (hi : s.findLive x.number = some i)
    (hroom : s.binWithRoom (s.orderAt i).bins = some b) (inspect : Bool) :
    BinsSound (s.deliver i x.item b inspect) := by
  obtain ⟨hl, n, hn, hw⟩ := hacc.print hs hi
  obtain ⟨_, hready⟩ := (hacc.fine i).pos_of_inFlight hn hw
  have hcount : (s.sorter.bin b).count < 100 := by
    have := List.find?_some hroom
    exact of_decide_eq_true this
  have hfill := h.fills hs hl hready hn hw (List.mem_of_find?_eq_some hroom) hcount
  have hsm : BookSound ((({ s with sorter := s.sorter.modBins State.fill [b] } : State).steer b).moveCounts i
      x.item fun n => { n with w := n.w - 1, d := n.d + 1 }) := 
    State.moveCounts_sound
      (s := ({ s with sorter := s.sorter.modBins State.fill [b] } : State).steer b) (hs.of_book rfl) _ _ _
  simp only [State.deliver]
  split
  · refine BinsSound.afterMove ?_ ?_ i
    · exact BinsSound.of_same (hfill.notes i (f := fun o => { o with inspect := true }) fun _ => rfl) rfl rfl
    · exact BookSound.of_book (hsm.modOrder i (fun o => { o with inspect := true }) fun _ => rfl) rfl
  · exact hfill.afterMove hsm i

theorem sortSheet {x : Sheet} {l : List OrderItem} (h : BinsSound s) (hs : BookSound s)
    (hacc : Accounted s (x.order.toList ++ l)) : BinsSound (s.sortSheet x) := by
  have hbook := State.rejectSheet_book s
  have hreject : BinsSound s.rejectSheet := h.of_same (by rw [hbook]) (State.rejectSheet_aside s).bins
  simp only [State.sortSheet]
  split
  · next k hk =>
    rw [hk] at hacc
    simp only [State.sortPrint]
    split
    · exact hreject
    · next i hi =>
      split
      · exact hreject.discard (hs.of_book hbook) _ _
      · split
        · next b hb => exact h.deliver hs hacc hi hb _
        · exact hreject.discard (hs.of_book hbook) _ _
  · split
    · exact hreject.of_same rfl rfl
    · exact hreject

/-! ### The acts of the paper path -/

theorem of_aside {t : State} (h : BinsSound s) (k : Aside s t) : BinsSound t :=
  h.of_same (by rw [k.book]) k.bins

/-- The frame being written is aborted, its print spoiled. -/
theorem aborts (h : BinsSound s) (hs : BookSound s) (hc : CountsSound s) (writing : s.writing = true) :
    BinsSound s.abortFrame.wasteLast := by
  cases hw : s.engine.work with
  | idle => simp [State.writing, hw] at writing
  | closing a n => simp [State.writing, hw] at writing
  | frame c =>
    have hspoil := BinsSound.spoil? (s := s.endFrame) (h.of_same rfl rfl) (hs.of_book rfl)
      (hc.accounted_endFrame hw)
    have habort : s.abortFrame = s.endFrame.spoil? (c.target.map fun t => ⟨t.number, t.item⟩) := by
      simp [State.abortFrame, State.frame?, hw]
    rw [← habort] at hspoil
    exact hspoil.of_same rfl rfl

/-- The web list is dropped, each print on it spoiled. -/
theorem dropsWeb (h : BinsSound s) (hs : BookSound s) (hc : CountsSound s) : BinsSound s.dropWeb := by
  have hspoils : BinsSound ((s.cutter.web.filterMap fun x => x.order).foldl State.spoil
      { s with cutter := s.cutter.drop }) :=
    BinsSound.spoils _ (h.of_same rfl rfl) (hs.of_book rfl)
      (Accounted.of_book (t := { s with cutter := s.cutter.drop }) hc.acc rfl)
  simp only [State.dropWeb]
  split
  · exact hspoils
  · exact hspoils.of_aside (State.dueAttempt_aside _)

/-- The head sheet is lost, its print spoiled. -/
theorem losesHead (h : BinsSound s) (hs : BookSound s) (hc : CountsSound s) : BinsSound s.loseHead := by
  simp only [State.loseHead]
  split
  · exact h
  · next x rest hx =>
    have hspoil : BinsSound (({ s with monitor.sheets := rest } : State).spoil? x.order) :=
      BinsSound.spoil? (h.of_same rfl rfl) (hs.of_book rfl)
        (Accounted.of_book (t := { s with monitor.sheets := rest })
          (hc.acc.perm (CountsSound.carriers_head hx)) rfl)
    exact hspoil.of_aside (State.dueAttempt_aside _)

/-- The head sheet is sorted. -/
theorem sorts (h : BinsSound s) (hs : BookSound s) (hc : CountsSound s) {x : Sheet} {rest : List Sheet}
    (head : s.monitor.sheets = x :: rest) :
    BinsSound (({ s with monitor.sheets := rest }.dueAttempt).sortSheet x) :=
  BinsSound.sortSheet (h.of_same rfl rfl) (hs.of_book rfl)
    (Accounted.of_book (t := ({ s with monitor.sheets := rest } : State).dueAttempt)
      (hc.acc.perm (CountsSound.carriers_head head)) rfl)

end BinsSound

end Sys2Proof.Machine
end


section
/-! Every step keeps the bins with the orders that own them (O14). -/

set_option Elab.async false

namespace Sys2Proof.Machine

namespace State

theorem freeBinList_sorter (s : State) (bs : List Nat) :
    (s.freeBinList bs).sorter = s.sorter.modBins (fun _ => Bin.free) bs := by
  simp only [freeBinList]
  split <;> rfl

theorem giveBinList_sorter (s : State) (bs : List Nat) :
    (s.giveBinList bs).sorter = s.sorter.modBins Bin.give bs := by
  simp only [giveBinList]
  split <;> rfl

theorem freeBinList_orderAt (s : State) (bs : List Nat) (j : Nat) :
    (s.freeBinList bs).orderAt j = s.orderAt j := orderAt_congr (by rw [freeBinList_book]) j

theorem giveBinList_orderAt (s : State) (bs : List Nat) (j : Nat) :
    (s.giveBinList bs).orderAt j = s.orderAt j := orderAt_congr (by rw [giveBinList_book]) j

theorem modOrder_orderAt (s : State) {i : Nat} (f : Order → Order) (hl : (s.orderAt i).live = true) (j : Nat) :
    (s.modOrder i f).orderAt j = if j = i then f (s.orderAt i) else s.orderAt j := by
  rw [orderAt_modOrder]
  by_cases e : j = i
  · rw [if_pos ⟨e, lt_of_live hl⟩, if_pos e]
  · rw [if_neg fun k => e k.1, if_neg e]

end State

namespace BinsSound

variable {s t : State}

/-- A record without bins is replaced by another without. -/
theorem renews (h : BinsSound s) (hs : BookSound s) {i : Nat}
    (hfree : (s.orderAt i).live = true → (s.orderAt i).bins = [])
    (hother : ∀ j, j ≠ i → t.orderAt j = s.orderAt j) (hbins : t.sorter = s.sorter)
    (hr : (t.orderAt i).Housed s.sorter.bin) : BinsSound t :=
  h.of_change hs i (fun _ => False) (by rw [hbins]) hother (fun b _ => by rw [hbins]) (fun _ hT => hT.elim)
    (fun _ hT => hT.elim) (fun _ _ hT => hT.elim) (fun hl b hb _ => by rw [hfree hl] at hb; cases hb)
    (by rw [hbins]; exact hr)

theorem opens (h : BinsSound s) (hs : BookSound s) {i n promo : Nat} {origin : Origin} {service : Service}
    {index : Bool} (free : firstRecord (fun o => !o.live) s.book.records = some i) :
    BinsSound (s.modOrder i fun _ =>
      { Order.free with
        number := n, state := .opened, origin := origin, service := service, promo := promo
        indexRequested := index, index := if index then some ⟨none, Counts.new 1⟩ else none }) := by
  obtain ⟨hi, hdead⟩ := State.firstRecord_some free
  have hdead : (s.orderAt i).live = false := by simpa [State.orderAt] using hdead
  refine h.renews hs (i := i) (fun hl => by rw [hdead] at hl; cases hl)
    (fun j hj => by rw [State.orderAt_modOrder, if_neg fun e => hj e.1]) rfl ?_
  rw [State.modOrder_same s _ hi]
  refine .bare rfl ?_ ?_ (by simp) (fun hc => by cases hc) ?_ <;> cases index
  · rfl
  · rfl
  · rfl
  · rfl
  · exact ⟨rfl, fun x hx => by cases hx⟩
  · exact ⟨rfl, fun x hx => by cases hx; exact ⟨rfl, rfl⟩⟩

/-- An OPEN record is edited: it holds no bins, and still none of its prints is started. -/
theorem edits (h : BinsSound s) (hs : BookSound s) {i : Nat} {f : Order → Order}
    (opened : (s.orderAt i).state = .opened) (hct : CountsSound (s.modOrder i f))
    (hf : (f (s.orderAt i)).state = .opened ∧ (f (s.orderAt i)).bins = (s.orderAt i).bins ∧
      (f (s.orderAt i)).indexRequested = (s.orderAt i).indexRequested ∧
      (f (s.orderAt i)).index = (s.orderAt i).index) : BinsSound (s.modOrder i f) := by
  obtain ⟨hst, hbins, hreq, hindex⟩ := hf
  have hat := s.modOrder_orderAt f (State.live_of_state opened (by simp))
  have hfine := hct.acc.fine i
  refine h.renews hs (fun _ => h.noBins i (.inl opened)) (fun j hj => by rw [hat, if_neg hj]) rfl ?_
  rw [hat, if_pos rfl] at hfine ⊢
  refine .fresh hfine (hfine.openFresh hst) (hbins.trans (h.noBins i (.inl opened))) (by simp [hst])
    (fun hc => by simp [Order.committedState, hst] at hc) ?_
  rw [hreq, hindex]
  exact h.index i

theorem dropsSlot (h : BinsSound s) {k : Nat} (hct : CountsSound (s.removeSlotItems k)) :
    BinsSound (s.removeSlotItems k) := by
  have hat : ∀ i, (s.removeSlotItems k).orderAt i =
      if (s.orderAt i).state == .opened then (s.orderAt i).dropSlot k else s.orderAt i := fun i => by
    simp only [State.removeSlotItems, State.orderAt, List.getD_eq_getElem?_getD, List.getElem?_map]
    cases s.book.records[i]? <;> rfl
  refine h.of_records rfl fun i => ?_
  have hfine := hct.acc.fine i
  rw [hat] at hfine ⊢
  split
  · next hst =>
    rw [if_pos hst] at hfine
    have opened : (s.orderAt i).state = .opened := by simpa using hst
    refine ⟨rfl, rfl, rfl, .fresh hfine (hfine.openFresh opened) (h.noBins i (.inl opened)) ?_ (fun hc => ?_)
      (h.index i)⟩
    · simp [Order.dropSlot, opened]
    · simp [Order.committedState, Order.dropSlot, opened] at hc
  · exact ⟨rfl, rfl, rfl, h.housed i⟩

theorem commits (h : BinsSound s) (hs : BookSound s) {i : Nat} {pre : Bool}
    (opened : (s.orderAt i).state = .opened) (few : State.ordered (s.orderAt i) ≤ 400)
    (hct : CountsSound (({ s.modOrder i (fun _ => s.committed (s.orderAt i) pre) with
      book.sequence := s.book.sequence + 1 } : State).setOrderState i .queued)) (hc : CountsSound s) :
    BinsSound (({ s.modOrder i (fun _ => s.committed (s.orderAt i) pre) with
      book.sequence := s.book.sequence + 1 } : State).setOrderState i .queued) := by
  have hl := State.live_of_state opened (by simp)
  have hat : ∀ j, (({ s.modOrder i (fun _ => s.committed (s.orderAt i) pre) with
      book.sequence := s.book.sequence + 1 } : State).setOrderState i .queued).orderAt j =
      if j = i then { s.committed (s.orderAt i) pre with state := .queued } else s.orderAt j := fun j => by
    have hmod : ∀ j, ({ s.modOrder i (fun _ => s.committed (s.orderAt i) pre) with
        book.sequence := s.book.sequence + 1 } : State).orderAt j =
        if j = i then s.committed (s.orderAt i) pre else s.orderAt j :=
      s.modOrder_orderAt (fun _ => s.committed (s.orderAt i) pre) hl
    have hlt : i < ({ s.modOrder i (fun _ => s.committed (s.orderAt i) pre) with
        book.sequence := s.book.sequence + 1 } : State).book.records.length :=
      State.lt_of_live (by rw [hmod, if_pos rfl]; exact hl)
    rw [State.setOrderState_orderAt, hmod, hmod, if_pos rfl]
    by_cases e : j = i
    · rw [if_pos ⟨e, hlt⟩, if_pos e]
    · rw [if_neg fun k => e k.1, if_neg e, if_neg e]
  have hfine := hct.acc.fine i
  refine h.renews hs (fun _ => h.noBins i (.inl opened)) (fun j hj => by rw [hat, if_neg hj]) ?_ ?_
  · rw [State.setOrderState_sorter, if_neg (by simp)]
    rfl
  · rw [hat, if_pos rfl] at hfine ⊢
    refine .fresh hfine ((hc.acc.fine i).openFresh opened) (h.noBins i (.inl opened)) (by simp) (fun _ => few) ?_
    obtain ⟨hsome, hq⟩ := h.index i
    refine ⟨?_, fun x hx => ?_⟩
    · exact Option.isSome_map.trans hsome
    · obtain ⟨y, hy, rfl⟩ := Option.map_eq_some_iff.1 hx
      exact hq y hy

theorem withdraws (h : BinsSound s) (hs : BookSound s) {i : Nat} (queued : (s.orderAt i).state = .queued)
    (hct : CountsSound (s.withdraw i)) : BinsSound (s.withdraw i) := by
  have hl := State.live_of_state queued (by simp)
  have hat : ∀ j, (s.withdraw i).orderAt j = if j = i then State.withdrawn (s.orderAt i) else s.orderAt j :=
    fun j => (State.orderAt_congr (s := s.modOrder i State.withdrawn) (s.withdraw_records i) j).trans
      (s.modOrder_orderAt _ hl j)
  have hfine := hct.acc.fine i
  refine h.givesUp hs hl (f := fun _ => Bin.free) (fun _ _ => ⟨rfl, rfl⟩) (fun j hj => by rw [hat, if_neg hj])
    ?_ ?_
  · show ((s.setOrderState i .opened).freeBinList _).sorter = _
    rw [State.freeBinList_sorter, State.setOrderState_sorter, if_neg (by simp)]
  · rw [hat, if_pos rfl] at hfine ⊢
    refine .fresh hfine (hfine.openFresh rfl) rfl (by simp [State.withdrawn]) (fun hc => by cases hc) ?_
    obtain ⟨hsome, hq⟩ := h.index i
    refine ⟨Option.isSome_map.trans hsome, fun x hx => ?_⟩
    obtain ⟨y, hy, rfl⟩ := Option.map_eq_some_iff.1 hx
    exact hq y hy

theorem collects (h : BinsSound s) (hs : BookSound s) {i : Nat} (hl : (s.orderAt i).live = true) :
    BinsSound ((s.freeBinList (s.orderAt i).bins).freeOrder i) := by
  have hlt : i < (s.freeBinList (s.orderAt i).bins).book.records.length := by
    rw [State.freeBinList_book]; exact State.lt_of_live hl
  have hat := State.freeOrder_orderAt (s.freeBinList (s.orderAt i).bins) (i := i) (hi := hlt)
  refine h.givesUp hs hl (f := fun _ => Bin.free) (fun _ _ => ⟨rfl, rfl⟩)
    (fun j hj => by rw [hat, if_neg hj, State.freeBinList_orderAt]) ?_ ?_
  · rw [State.freeOrder_sorter, State.freeBinList_sorter]
  · rw [hat, if_pos rfl]; exact .free

theorem cancels (h : BinsSound s) (hs : BookSound s) {i : Nat} (hl : (s.orderAt i).live = true) :
    BinsSound (s.cancel i) := by
  have hmod : ∀ j, ((s.giveBinList (s.orderAt i).bins).modOrder i Accounted.cancelled).orderAt j =
      if j = i then Accounted.cancelled (s.orderAt i) else s.orderAt j := fun j => by
    rw [State.modOrder_orderAt _ _ (by rw [State.giveBinList_orderAt]; exact hl), State.giveBinList_orderAt,
      State.giveBinList_orderAt]
  have hlt : i < ((s.giveBinList (s.orderAt i).bins).modOrder i Accounted.cancelled).book.records.length :=
    State.lt_of_live (by rw [hmod, if_pos rfl]; exact hl)
  have hsorter : ((s.giveBinList (s.orderAt i).bins).modOrder i Accounted.cancelled).sorter =
      s.sorter.modBins Bin.give (s.orderAt i).bins := s.giveBinList_sorter _
  have hgive : ∀ b : Bin, b.sound = true → b.give.sound = true ∧ b.give.owner = none :=
    fun b hb => ⟨Bin.give_sound hb, b.give_owner⟩
  simp only [State.cancel]
  split
  · have hat := State.freeOrder_orderAt _ (i := i) (hi := hlt)
    refine h.givesUp hs hl hgive (fun j hj => (hat j).trans ?_) ((State.freeOrder_sorter _ i).trans hsorter) ?_
    · rw [if_neg hj, hmod, if_neg hj]
    · exact (((hat i).trans (if_pos rfl)).symm ▸ Order.Housed.free)
  · have hat : ∀ j, (((s.giveBinList (s.orderAt i).bins).modOrder i Accounted.cancelled).setOrderState i
        .void).orderAt j = if j = i then { Accounted.cancelled (s.orderAt i) with state := .void }
          else s.orderAt j := fun j => by
      rw [State.setOrderState_orderAt, hmod, hmod, if_pos rfl]
      by_cases e : j = i
      · rw [if_pos ⟨e, hlt⟩, if_pos e]
      · rw [if_neg fun k => e k.1, if_neg e, if_neg e]
    refine h.givesUp hs hl hgive (fun j hj => (hat j).trans (if_neg hj))
      (((State.setOrderState_sorter _ i .void).trans (if_neg (by simp))).trans hsorter) ?_
    have hvoid : ∀ bin, ({ Accounted.cancelled (s.orderAt i) with state := .void } : Order).Housed bin := fun bin =>
      .void rfl rfl ((Order.SameAsk.mapCounts (s.orderAt i) (f := fun n => { n with p := 0, s := n.s + n.p })
        (fun _ => rfl) fun _ => rfl).indexSound (h.index i))
    exact ((hat i).trans (if_pos rfl)).symm ▸ hvoid _

theorem skips (h : BinsSound s) (hs : BookSound s) (i k : Nat) :
    BinsSound ((s.moveCounts i k fun m => { m with p := 0, s := m.s + m.p }).afterSkip i) := by
  have hmove : BinsSound (s.moveCounts i k fun m => { m with p := 0, s := m.s + m.p }) := by
    refine h.moveCounts i k ((h.housed i).modCounts k (fun _ => rfl) (fun _ => rfl) (fun _ => rfl) ?_
      (.inr fun _ _ => le_refl _))
    exact fun n _ => by dsimp only; omega
  have hsm := State.moveCounts_sound hs i k fun m => { m with p := 0, s := m.s + m.p }
  simp only [State.afterSkip]
  split
  · exact hmove
  · split
    · next e => exact hmove.byCounts hsm (.inl e)
    · next e =>
      split
      · exact hmove.toState hsm (.inr (.inl e)) (.inr (.inl rfl))
      · exact hmove.byCounts hsm (.inr (.inl e))
    · exact hmove

theorem empties (h : BinsSound s) (hs : BookSound s) {b : Nat} (purge : (s.sorter.bin b).state = .purge) :
    BinsSound (s.freeBinList [b]) := by
  have hbin : ∀ x, (s.freeBinList [b]).sorter.bin x =
      if x = b ∧ 1 ≤ x ∧ x ≤ s.sorter.bins.length then Bin.free else s.sorter.bin x := fun x => by
    rw [State.freeBinList_sorter, Sorter.bin_modAt]
  have hnone := Bin.owner_of_purge (h.sound b) purge
  have hbeyond : (s.orderAt s.book.records.length).live = false := by
    rw [State.orderAt_beyond s _ (le_refl _)]; rfl
  refine h.of_change hs s.book.records.length (· = b) (by rw [State.freeBinList_sorter, Sorter.modBins_length])
    (fun j _ => s.freeBinList_orderAt _ j) (fun x hx => by rw [hbin, if_neg fun e => hx e.1])
    (fun x e => .inl (e ▸ hnone)) (fun x e => ?_) (fun x n e hn => ?_)
    (fun hl => by rw [hbeyond] at hl; cases hl) ?_
  · rw [hbin]
    split
    · rfl
    · exact h.sound x
  · rw [hbin, e] at hn
    split at hn
    · cases hn
    · rw [hnone] at hn; cases hn
  · rw [State.freeBinList_orderAt, State.orderAt_beyond s _ (le_refl _)]
    exact .free

theorem resetsActive (h : BinsSound s) (hs : BookSound s) : BinsSound s.resetActive := by
  simp only [State.resetActive]
  split
  · exact h
  · next i hi =>
    have hst := State.current_some hi
    split
    · exact h.byCounts hs (.inr (.inl hst))
    · exact h.toState hs (.inr (.inl hst)) (.inr (.inl rfl))

/-- The counters of an item reprinted with n courtesy prints (R26). -/
def courtesy (n : Nat) (m : Counts) : Counts := { m with c := m.c + n, p := m.p + n }

/-- A READY order is reprinted: its bins reopen, and the prints added wait (R26, R159). -/
theorem reprints (h : BinsSound s) (hs : BookSound s) (hc : CountsSound s) {i k n : Nat}
    (ready : (s.orderAt i).state = .ready) (item : k ≠ 0) (few : State.printsWith (s.orderAt i) n ≤ 400) :
    BinsSound (((s.moveCounts i k (courtesy n)).reopenBins
      (s.orderAt i).bins).setOrderState i .queued) := by
  have hl := State.live_of_state ready (by simp)
  have hold := h.housed i
  have hlisted := hold.listed hl
  obtain ⟨_, _, hbins, hnumber, _⟩ :=
    modCounts_rest (s.orderAt i) k (courtesy n)
  have hmod : ∀ j, ((s.moveCounts i k (courtesy n)).reopenBins
      (s.orderAt i).bins).orderAt j = if j = i then (s.orderAt i).modCounts k (courtesy n) else s.orderAt j := s.modOrder_orderAt _ hl
  have hlt : i < ((s.moveCounts i k (courtesy n)).reopenBins
      (s.orderAt i).bins).book.records.length :=
    State.lt_of_live (by rw [hmod, if_pos rfl, Order.modCounts_live]; exact hl)
  have hat : ∀ j, (((s.moveCounts i k (courtesy n)).reopenBins
      (s.orderAt i).bins).setOrderState i .queued).orderAt j = if j = i then { (s.orderAt i).modCounts k (courtesy n) with state := .queued } else s.orderAt j := fun j => by
    rw [State.setOrderState_orderAt, hmod, hmod, if_pos rfl]
    by_cases e : j = i
    · rw [if_pos ⟨e, hlt⟩, if_pos e]
    · rw [if_neg fun k => e k.1, if_neg e, if_neg e]
  have hsorter : (((s.moveCounts i k (courtesy n)).reopenBins
      (s.orderAt i).bins).setOrderState i .queued).sorter = s.sorter.modBins Bin.reopen (s.orderAt i).bins :=
    (State.setOrderState_sorter _ i .queued).trans (if_neg (by simp))
  have hbin : ∀ b, (s.sorter.modBins Bin.reopen (s.orderAt i).bins).bin b =
      if b ∈ (s.orderAt i).bins then (s.sorter.bin b).reopen else s.sorter.bin b := h.bin_listed hl _
  refine h.of_change hs i (· ∈ (s.orderAt i).bins) (by rw [hsorter, Sorter.modBins_length])
    (fun j hj => by rw [hat, if_neg hj]) (fun b hb => by rw [hsorter, hbin, if_neg hb])
    (fun b hb => .inr ⟨hl, (hlisted b hb).2.2.1⟩) (fun b hb => ?_) (fun b m hb hm => ?_)
    (fun _ b hb hT => absurd hb hT) ?_
  · rw [hsorter, hbin, if_pos hb]
    exact Bin.reopen_sound (h.sound b)
  · rw [hsorter, hbin, if_pos hb, (Bin.reopen_rest _).1] at hm
    rw [hat, if_pos rfl]
    exact ⟨rfl, hnumber.trans (Option.some.inj ((hlisted b hb).2.2.1.symm.trans hm)), hbins ▸ hb⟩
  · rw [hat, if_pos rfl, hsorter]
    refine ⟨fun _ b hb => ?_, hbins ▸ hold.once, fun _ => ?_, fun hst => ?_, fun _ _ => ?_, fun hr => ?_,
      fun _ => ?_, ?_⟩
    · have hb : b ∈ (s.orderAt i).bins := hbins ▸ hb
      obtain ⟨h1, h2, hown, _⟩ := hlisted b hb
      obtain ⟨hrown, _, hrstate⟩ := (s.sorter.bin b).reopen_rest
      rw [hbin, if_pos hb]
      exact ⟨h1, h2, hrown.trans (hown.trans (congrArg some hnumber.symm)),
        ⟨fun e => absurd e hrstate, fun e => (by cases e)⟩⟩
    · refine hbins ▸ hold.few ?_
      simp only [State.printsWith] at few ⊢
      omega
    · rcases hst with e | e <;> cases e
    · have hcounts : ((s.orderAt i).bins.map fun b =>
          ((s.sorter.modBins Bin.reopen (s.orderAt i).bins).bin b).count) =
          (s.orderAt i).bins.map fun b => (s.sorter.bin b).count := List.map_congr_left fun b hb => by
        rw [hbin, if_pos hb, (Bin.reopen_rest _).2.1]
      show total (((s.orderAt i).modCounts k _).bins.map _) = ((s.orderAt i).modCounts k _).sum _
      rw [hbins, hcounts, hold.filled hl (by simp [ready])]
      exact (Order.sum_modCounts_eq (f := courtesy n) _ k fun _ _ => rfl).symm
    · rcases hr with e | ⟨_, hw⟩
      · cases e
      · have hsame : ((s.orderAt i).modCounts k (courtesy n)).sum (·.w) =
            (s.orderAt i).sum (·.w) := Order.sum_modCounts_eq _ k fun _ _ => rfl
        have hnone := (hc.acc.fine i).readyLanded ready
        have hw : 0 < ((s.orderAt i).modCounts k (courtesy n)).sum (·.w) := hw
        omega
    · refine le_trans (le_of_eq ?_) (hold.quantity (by simp [Order.committedState, ready]))
      simp only [State.ordered, Order.modCounts, if_neg item]
      rw [map_modAt_of_eq (fun x : Item => x.n.q) (fun x => { x with n := courtesy n x.n }) fun _ => rfl]
    · have hindex : ((s.orderAt i).modCounts k (courtesy n)).index =
          (s.orderAt i).index := by simp only [Order.modCounts, if_neg item]
      have hreq : ((s.orderAt i).modCounts k (courtesy n)).indexRequested =
          (s.orderAt i).indexRequested := by simp only [Order.modCounts, if_neg item]
      show Option.isSome (Order.index _) = Order.indexRequested _ ∧ ∀ x, Order.index _ = some x → _
      rw [hindex, hreq]
      exact hold.index

end BinsSound

theorem Act.keeps_binsSound {c : Instr} {s t : State} (a : Act c s t) (hs : BookSound s) (hc : CountsSound s)
    (h : BinsSound s) : BinsSound t := by
  have hct := a.keeps_countsSound hs hc
  cases a with
  | aside k => exact h.of_aside k
  | stores k =>
    obtain ⟨hbook, hsorter, _⟩ := k.leaves
    exact h.of_same (by rw [hbook]) (by rw [hsorter])
  | steers k => obtain ⟨tr, us, rfl⟩ := k.leaves; exact h.of_same rfl rfl
  | opens free => exact h.opens hs free
  | addsItem opened => exact h.edits hs opened hct ⟨opened, rfl, rfl, rfl⟩
  | dropsItem opened => exact h.edits hs opened hct ⟨opened, rfl, rfl, rfl⟩
  | dropsSlot => exact h.dropsSlot hct
  | commits opened few => exact h.commits hs opened few hct hc
  | withdraws queued => exact h.withdraws hs queued hct
  | discards opened => exact h.frees hs (State.live_of_state opened (by simp)) (h.noBins _ (.inl opened))
  | collects ready => exact h.collects hs (State.live_of_state ready (by simp))
  | cancels committed => exact h.cancels hs (State.live_of_committed committed)
  | notes same => exact h.notes _ same
  | holds => exact h.addHold hs _ _
  | releases => exact h.release hs _ _
  | unpapers => exact h.releasePaper1 hs _
  | reprints ready item _ few => exact h.reprints hs hc ready item few
  | skips => exact h.skips hs _ _
  | empties purge => exact h.empties hs purge
  | losesHead => exact h.losesHead hs hc
  | sorts head => exact h.sorts hs hc head
  | aborts writing => exact h.aborts hs hc writing
  | dropsWeb => exact h.dropsWeb hs hc
  | resetsActive => exact h.resetsActive hs
  | cuts => rw [State.fireCut_tr]; exact h.of_same rfl rfl
  | gaps => exact h.of_same rfl rfl

/-! ### Coming to rest -/

theorem total_map_le {α : Type} {f g : α → Nat} {l : List α} (h : ∀ x ∈ l, f x ≤ g x) :
    total (l.map f) ≤ total (l.map g) := by
  simp only [total_eq_sum]
  exact List.sum_le_sum h

/-- The prints of an order to house are among those it was charged and given (R7). -/
theorem Order.toHouse_le {o : Order} {bin : Nat → Bin} (h : o.Housed bin) (hf : o.Fine)
    (hl : o.live = true) : o.toHouse ≤ State.printsWith o 0 := by
  have hle : o.toHouse ≤ o.sum fun n => n.q + n.c := total_map_le fun n hn => by
    have := hf.balance hl n hn
    omega
  refine hle.trans (le_of_eq ?_)
  obtain ⟨hsome, hq⟩ := h.index
  have hitems : ∀ l : List Item, total (l.map fun x => x.n.q + x.n.c) =
      total (l.map fun x => x.n.q) + total (l.map fun x => x.n.c) := fun l => by
    simp only [total_eq_sum]
    exact List.sum_map_add
  simp only [Order.sum, Order.counts, List.map_append, total_append, List.map_map, Function.comp_def, hitems,
    State.printsWith, State.ordered]
  cases hx : o.index with
  | none =>
    rw [hx] at hsome
    simp [← hsome, total_eq_sum]
  | some x =>
    rw [hx] at hsome
    obtain ⟨hq1, hc0⟩ := hq x hx
    simp [← hsome, total_eq_sum, hq1, hc0]
    omega

namespace State

theorem freeBins_mem {t : Sorter} {k : Bank} {b : Nat} (h : b ∈ t.freeBins k) :
    1 ≤ b ∧ b ≤ 24 ∧ (t.bin b).state = .free := by
  obtain ⟨hr, hf⟩ := List.mem_filter.1 h
  obtain ⟨x, hx, rfl⟩ := List.mem_map.1 hr
  simp only [Bool.and_eq_true, beq_iff_eq] at hf
  have := List.mem_range.1 hx
  exact ⟨by omega, by omega, hf.1⟩

theorem freeBins_nodup (t : Sorter) (k : Bank) : (t.freeBins k).Nodup :=
  (List.nodup_range.map fun _ _ e => by simpa using e).filter _

end State

namespace BinsSound

variable {s : State}

/-- A selection completes the reservation of a QUEUED order, which becomes ACTIVE with room for its prints
(R24, R155). -/
theorem selects {t : State} (h : BinsSound s) (hs : BookSound s) (hc : CountsSound s) {i : Nat}
    (queued : (s.orderAt i).state = .queued) (reserved : s.reserve i = some t)
    (ht : BookSound t) : BinsSound (t.select i) := by
  obtain ⟨henough, rfl⟩ := State.reserve_some reserved
  have hl := State.live_of_state queued (by simp)
  have hold := h.housed i
  have hmem : ∀ b ∈ s.reservedBins i, 1 ≤ b ∧ b ≤ 24 ∧ (s.sorter.bin b).state = .free := fun b hb =>
    State.freeBins_mem (List.mem_of_mem_take hb)
  have hnodup : (s.reservedBins i).Nodup := (State.freeBins_nodup _ _).sublist (List.take_sublist _ _)
  have hnone : ∀ b ∈ s.reservedBins i, (s.sorter.bin b).owner = none := fun b hb =>
    Bin.owner_of_free (h.sound b) (hmem b hb).2.2
  have hlength : ((s.orderAt i).bins ++ s.reservedBins i).length =
      max (s.orderAt i).bins.length (s.orderAt i).need := by
    rw [List.length_append, State.reservedBins, List.length_take]
    omega
  have hnew : ∀ b ∈ (s.orderAt i).bins, b ∉ s.reservedBins i := fun b hb hr => by
    have := (h.listed i hl b hb).2.2.1
    rw [hnone b hr] at this
    cases this
  have hbin : ∀ b, (s.reservedSorter i).bin b = if b ∈ s.reservedBins i then
      ⟨.reserved, some (s.orderAt i).number, 0⟩ else s.sorter.bin b := fun b => by
    rw [State.reservedSorter, Sorter.bin_modBins _ _ _ _ hnodup]
    by_cases hb : b ∈ s.reservedBins i
    · obtain ⟨h1, h2, _⟩ := hmem b hb
      rw [if_pos ⟨hb, h1, by rw [h.size]; exact h2⟩, if_pos hb]
    · rw [if_neg fun e => hb e.1, if_neg hb]
  have hat : ∀ j, (({ s with sorter := s.reservedSorter i } : State).modOrder i fun o =>
      { o with bins := o.bins ++ s.reservedBins i }).orderAt j = if j = i then
        { s.orderAt i with bins := (s.orderAt i).bins ++ s.reservedBins i } else s.orderAt j :=
    s.modOrder_orderAt (fun o => { o with bins := o.bins ++ s.reservedBins i }) hl
  have hhouse := Order.toHouse_le hold (hc.acc.fine i) hl
  have hneed : (s.orderAt i).need = max 1 (ceilDiv (s.orderAt i).toHouse 100) := rfl
  have hbins : BinsSound (({ s with sorter := s.reservedSorter i } : State).modOrder i fun o =>
      { o with bins := o.bins ++ s.reservedBins i }) := by
    refine h.of_change hs i (· ∈ s.reservedBins i) (Sorter.modBins_length _ _ _)
      (fun j hj => by rw [hat, if_neg hj]) (fun b hb => (hbin b).trans (if_neg hb))
      (fun b hb => .inl (hnone b hb)) (fun b hb => ?_) (fun b n hb hn => ?_) (fun _ b hb _ => ?_) ?_
    · exact (congrArg Bin.sound ((hbin b).trans (if_pos hb))).trans rfl
    · have hn : some (s.orderAt i).number = some n :=
        (congrArg Bin.owner ((hbin b).trans (if_pos hb))).symm.trans hn
      rw [hat, if_pos rfl]
      exact ⟨hl, Option.some.inj hn, List.mem_append_right _ hb⟩
    · rw [hat, if_pos rfl]
      exact ⟨hl, rfl, List.mem_append_left _ hb⟩
    · rw [hat, if_pos rfl]
      show Order.Housed (s.reservedSorter i).bin _
      refine ⟨fun _ b hb => ?_, ?_, fun hp => ?_, fun hst => ?_, fun _ hv => ?_, fun hr => ?_, hold.quantity,
        hold.index⟩
      · rw [hbin]
        split
        · next hr =>
          obtain ⟨h1, h2, _⟩ := hmem b hr
          exact ⟨h1, h2, rfl, ⟨fun e => (by cases e), fun e => by rw [queued] at e; cases e⟩⟩
        · next hr => exact h.listed i hl b ((List.mem_append.1 hb).resolve_right hr)
      · exact List.Nodup.append hold.once hnodup fun b hb hr => hnew b hb hr
      · have hfew := hold.few hp
        have hp : State.printsWith (s.orderAt i) 0 ≤ 400 := hp
        rw [hlength, hneed]
        simp only [ceilDiv]
        omega
      · rcases hst with e | e <;> rw [queued] at e <;> cases e
      · have hcounts : ((s.orderAt i).bins.map fun b => ((s.reservedSorter i).bin b).count) =
            (s.orderAt i).bins.map fun b => (s.sorter.bin b).count := List.map_congr_left fun b hb => by
          rw [hbin, if_neg (hnew b hb)]
        have hzero : total ((s.reservedBins i).map fun b => ((s.reservedSorter i).bin b).count) = 0 := by
          rw [total_eq_sum, List.sum_eq_zero_iff_forall_eq_nat]
          intro x hx
          obtain ⟨b, hb, rfl⟩ := List.mem_map.1 hx
          rw [hbin, if_pos hb]
        show total (((s.orderAt i).bins ++ s.reservedBins i).map _) = (s.orderAt i).sum _
        rw [List.map_append, total_append, hcounts, hzero, hold.filled hl hv]
        rfl
      · show (s.orderAt i).toHouse ≤ 100 * ((s.orderAt i).bins ++ s.reservedBins i).length
        rcases hr with e | ⟨hv, hpos⟩
        · rw [queued] at e; cases e
        · have := hold.room (.inr ⟨hv, hpos⟩)
          rw [List.length_append]
          omega
  have hroom : (s.orderAt i).toHouse ≤ 100 * ((s.orderAt i).bins ++ s.reservedBins i).length := by
    rw [hlength, hneed]
    simp only [ceilDiv]
    omega
  have hactive := hbins.enters ht (i := i) (st := .active) (by rw [hat, if_pos rfl]; simp [Order.committedState, queued])
    (by rw [hat, if_pos rfl]; simp [queued]) rfl fun _ => by rw [hat, if_pos rfl]; exact hroom
  exact hactive.of_same rfl rfl

/-- A frame starts: its print goes from pending to in flight (R8). -/
theorem startPrint (h : BinsSound s) (hs : BookSound s) {t : Target} {n : Counts}
    (active : (s.orderAt t.record).state = .active) (hn : (s.orderAt t.record).countsAt t.item = some n)
    (hp : 0 < n.p) : BinsSound (s.startPrint t) := by
  have hl := State.live_of_state active (by simp)
  obtain ⟨hstate, _, hbins, hnumber, _⟩ :=
    modCounts_rest (s.orderAt t.record) t.item fun n => { n with p := n.p - 1, w := n.w + 1 }
  have hcounts : ((s.orderAt t.record).modCounts t.item fun n => { n with p := n.p - 1, w := n.w + 1 }).Housed
      s.sorter.bin := by
    refine (h.housed t.record).modCounts t.item (fun _ => rfl) (fun _ => rfl) (fun _ => rfl) (fun m hm => ?_)
      (.inl active)
    rw [hn] at hm
    cases hm
    dsimp only
    omega
  have hmove : BinsSound (s.modOrder t.record fun o =>
      { o.modCounts t.item fun n => { n with p := n.p - 1, w := n.w + 1 } with started := true }) := by
    refine h.modOrder t.record _ ⟨Order.modCounts_live _ _ _, hnumber, hbins, ?_⟩
    exact ⟨hcounts.listed, hcounts.once, hcounts.few, hcounts.noBins, hcounts.filled, hcounts.room,
      hcounts.quantity, hcounts.index⟩
  have hkey : ∀ o : Order, ({ o.modCounts t.item fun n => { n with p := n.p - 1, w := n.w + 1 } with
      started := true } : Order).key = o.key := fun o => State.modCounts_key o t.item _
  simp only [State.startPrint]
  split
  · refine hmove.toState (hs.modOrder _ _ hkey) (.inr (.inl ?_)) (.inr (.inr (.inl rfl)))
    rw [s.modOrder_orderAt _ hl, if_pos rfl]
    exact hstate.trans active
  · exact hmove

theorem starts (h : BinsSound s) (hs : BookSound s) {m : MagSlot} {g : Geometry} {target : Option Target}
    (pending : ∀ x, target = some x → (s.orderAt x.record).state = .active ∧
      x.number = (s.orderAt x.record).number ∧
      ∃ n, (s.orderAt x.record).countsAt x.item = some n ∧ 0 < n.p) :
    BinsSound (s.startFrame m g target) := by
  have hbook := State.copyCorrections_book s
  have hsorter : s.copyCorrections.sorter = s.sorter := by
    simp only [State.copyCorrections]; split <;> rfl
  have hcopy : BinsSound s.copyCorrections := h.of_same (by rw [hbook]) (by rw [hsorter])
  have hstart : BinsSound (s.copyCorrections.startTarget target) := by
    cases target with
    | none => exact hcopy
    | some x =>
      obtain ⟨hact, _, n, hn, hp⟩ := pending x rfl
      have hat := State.orderAt_congr (t := s.copyCorrections) (s := s) (by rw [hbook]) x.record
      have hprint := hcopy.startPrint (hs.of_book hbook) (t := x) (n := n) (by rw [hat]; exact hact)
        (by rw [hat]; exact hn) hp
      simp only [State.startTarget]
      split
      · exact hprint
      · exact hprint.of_same rfl rfl
  have htake : BinsSound (s.takeFrame m g target) := hstart.of_same rfl rfl
  exact htake.of_aside (State.startFrame_aside s m g target)

end BinsSound

theorem RestAct.keeps_binsSound {s t : State} (a : RestAct s t) (hs : BookSound s) (hc : CountsSound s)
    (h : BinsSound s) : BinsSound t := by
  cases a with
  | act a => exact a.keeps_binsSound hs hc h
  | endsHeld active => exact h.toState hs (.inr (.inl active)) (.inr (.inl rfl))
  | selects queued _ reserved =>
    obtain ⟨hk, hq, hn, _⟩ := State.reserve_records reserved
    exact h.selects hs hc queued reserved (hs.of_keys hk hq hn)
  | starts _ _ pending => exact h.starts hs pending

theorem settle_binsSound {before s : State} (hs : BookSound s) (hc : CountsSound s) (h : BinsSound s) :
    BinsSound (State.settle before s) :=
  ((State.settle_rests before hs).keeps (P := fun x => BookSound x ∧ CountsSound x ∧ BinsSound x)
    (fun _ _ a ⟨hs, hc, h⟩ => ⟨a.keeps_bookSound hs, a.keeps_countsSound hs hc, a.keeps_binsSound hs hc h⟩)
    ⟨hs, hc, h⟩).2.2

/-- Free bins and free records. -/
theorem binsSound_of_free {s : State} (hr : s.book.records = List.replicate Config.orderRecords Order.free)
    (hb : s.sorter.bins = List.replicate 24 Bin.free) : BinsSound s := by
  have hfree : ∀ i, s.orderAt i = Order.free := fun i => by
    simp only [State.orderAt, hr, List.getD_eq_getElem?_getD, List.getElem?_replicate]
    split <;> rfl
  have hbin : ∀ b, s.sorter.bin b = Bin.free := fun b => by
    simp only [Sorter.bin, hb, List.getD_eq_getElem?_getD, List.getElem?_replicate]
    split
    · rfl
    · split <;> rfl
  refine (binsSound_iff s).2 ⟨by rw [hb]; rfl, fun b => by rw [hbin]; rfl, fun b n hn => ?_, fun i => ?_⟩
  · rw [hbin] at hn; cases hn
  · rw [hfree]; exact .free

theorem repower_binsSound (s : State) : BinsSound s.repower := binsSound_of_free rfl rfl

end Sys2Proof.Machine

namespace Sys2Proof.Proofs

open Sys2Proof.Machine Sys2Proof.Machine.State

/-- Settles O14: each act keeps the bins with their owners, and so does each thing that coming to rest does. -/
theorem binsStayWithTheirOwners : Obligations.BinsStayWithTheirOwners := by
  unfold Obligations.BinsStayWithTheirOwners
  intro s t hs hc hb e
  exact (step_keeps (P := fun x => BookSound x ∧ CountsSound x ∧ BinsSound x)
    (fun _ _ ⟨h1, h2, h3⟩ => ⟨h1.of_book rfl, h2.of_way rfl (.plain rfl rfl rfl), h3.of_same rfl rfl⟩)
    (fun _ _ ⟨h1, h2, h3⟩ => ⟨h1.of_book rfl, h2.of_way rfl (.plain rfl rfl rfl), h3.of_same rfl rfl⟩)
    (fun _ _ _ a ⟨h1, h2, h3⟩ => ⟨a.keeps_bookSound h1, a.keeps_countsSound h1 h2, a.keeps_binsSound h1 h2 h3⟩)
    (fun _ _ ⟨h1, h2, h3⟩ => ⟨settle_sound h1, settle_countsSound h1 h2, settle_binsSound h1 h2 h3⟩)
    (fun s => ⟨repower_bookSound s, repower_countsSound s, repower_binsSound s⟩) e ⟨hs, hc, hb⟩).2.2

end Sys2Proof.Proofs
end


section
/-! The ports (chapter 11): requests answered in their holders, frames spelled again, transfers. -/

set_option Elab.async false

namespace Sys2Proof.Machine

/-! ### Answers -/

section
variable {s u : State} {h : Hdr} {code : Nat} {roles : List Port} {a : Answer} {st : Status} {ps : List Byte}

/-- A request on a port it is open to. -/
theorem serve_open (hp : h.port ∈ roles) :
    serve s h code roles a = .next (a.state.place h code a.status a.payload) := by
  have hc : roles.contains h.port = true := List.contains_iff_mem.2 hp
  simp only [serve, hc, if_true]

/-- A request on a port it is not open to (R179). -/
theorem serve_closed (hp : h.port ∉ roles) : serve s h code roles a = .next (s.place h code .eRole []) := by
  have hc : roles.contains h.port = false := by simpa using hp
  simp only [serve, hc, Bool.false_eq_true, if_false]

theorem served_done (hp : h.port ∈ roles) (e : a = done s u ps) :
    Served (serve s h code roles a) s u h code .ok ps := by
  rw [serve_open hp, e]
  exact State.served_of rfl

theorem served_accepted (hp : h.port ∈ roles) (e : a = accepted s u) :
    Served (serve s h code roles a) s u h code .accepted [] := by
  rw [serve_open hp, e]
  exact State.served_of rfl

theorem refused_of (hp : h.port ∈ roles) (e : a = refuse s st) :
    Refused (serve s h code roles a) s h code st := by
  rw [serve_open hp, e]
  rfl

theorem placed_of (hp : h.port ∈ roles) (e : a = ⟨s, st, ps⟩) :
    serve s h code roles a = .next (s.place h code st ps) := by
  rw [serve_open hp, e]

end

theorem mem_everyPort (p : Port) : p ∈ everyPort := by cases p <;> decide

theorem mem_orderPort {p : Port} (h : p = .order) : p ∈ orderPort := by rw [h]; decide
theorem mem_tillPort {p : Port} (h : p = .till) : p ∈ tillPort := by rw [h]; decide
theorem mem_linePort {p : Port} (h : p = .line) : p ∈ linePort := by rw [h]; decide

theorem mem_tillAndLine {p : Port} (h : p ≠ .order) : p ∈ tillAndLine := by
  cases p with
  | order => exact absurd rfl h
  | till | line => decide

/-! ### What a port holds and presents -/

namespace State

theorem place_port (s : State) (h : Hdr) (code : Nat) (st : Status) (ps : List Byte) (p : Port) :
    (s.place h code st ps).port p = if p = h.port then
      { s.port p with
        holder := some ⟨st, h.tag, byte code, ps⟩
        out := List.replicate (requestFrameLength code) 0 } else s.port p :=
  port_modPort s _ h.port p

/-- Zeros on data out are zero bits. -/
theorem presentBits_zeros (n : Nat) : ∀ b ∈ presentBits (List.replicate n 0), b = false := by
  intro b hb
  obtain ⟨x, hx, hb⟩ := List.mem_flatMap.1 hb
  obtain ⟨k, _, rfl⟩ := List.mem_map.1 hb
  rw [List.eq_of_mem_replicate hx]
  exact BitVec.getLsbD_zero

end State

/-! ### PRICE_READ (R37) -/

namespace State

theorem priceRead_of_copy (s : State) {copy : Byte} (entry : Byte) (h : 1 < copy.toNat) :
    s.priceRead copy entry = refuse s .eRange := by
  obtain ⟨k, hk⟩ := Nat.exists_eq_add_of_le' h
  simp only [priceRead, hk]

theorem priceRead_of_entry (s : State) (copy : Byte) {entry : Byte} (h : 16 < entry.toNat) :
    s.priceRead copy entry = refuse s .eRange := by
  simp only [priceRead]
  split
  · rfl
  · rw [if_neg (by omega), if_neg (by omega)]

theorem priceRead_of_table (s : State) {copy : Byte} (entry : Byte) {table : PriceTable}
    (h : copy.toNat = 0 ∧ table = s.prices.active ∨ copy.toNat = 1 ∧ table = s.prices.staged) :
    s.priceRead copy entry =
      if entry.toNat ≤ 15 then
        readOut s (le16 s.prices.generation ++ productBytes (table.product entry.toNat))
      else if entry.toNat = 16 then readOut s (le16 s.prices.generation ++ globalsBytes table.globals)
      else refuse s .eRange := by
  rcases h with ⟨hc, rfl⟩ | ⟨hc, rfl⟩ <;> simp only [priceRead, hc]

end State

/-! ### Frames (12.1) -/

theorem half_extract (x : Half) : half (x.extractLsb' 0 8) (x.extractLsb' 8 8) = x := by
  simp only [half]
  ext i hi
  simp only [BitVec.getElem_append, BitVec.getElem_extractLsb']
  split
  · simp [BitVec.getLsbD_eq_getElem hi]
  · rw [show 8 + (i - 8) = i by omega, BitVec.getLsbD_eq_getElem hi]

theorem wide_extract (x : Wide) :
    wide (x.extractLsb' 0 8) (x.extractLsb' 8 8) (x.extractLsb' 16 8) (x.extractLsb' 24 8) = x := by
  simp only [wide]
  ext i hi
  simp only [BitVec.getElem_append, BitVec.getElem_extractLsb']
  split
  · simp [BitVec.getLsbD_eq_getElem hi]
  · split
    · rw [show 8 + (i - 8) = i by omega, BitVec.getLsbD_eq_getElem hi]
    · split
      · rw [show 16 + (i - 8 - 8) = i by omega, BitVec.getLsbD_eq_getElem hi]
      · rw [show 24 + (i - 8 - 8 - 8) = i by omega, BitVec.getLsbD_eq_getElem hi]

theorem bytesHalves_halvesBytes : ∀ l : List Half, bytesHalves (halvesBytes l) = some l
  | [] => rfl
  | x :: xs => by simp [halvesBytes, bytesHalves, bytesHalves_halvesBytes xs, half_extract]

theorem length_halvesBytes : ∀ l : List Half, (halvesBytes l).length = 2 * l.length
  | [] => rfl
  | x :: xs => by simp [halvesBytes, length_halvesBytes xs]; omega

/-- The parameters of a well-formed request have the length of its code and spell it again. -/
theorem parseParams_encodeParams {i : Instr} {code : Nat} {h : Hdr} {ps : List Byte}
    (hwf : i.wellFormed = true) (e : encodeParams i = some (code, h, ps)) :
    requestLength code = some ps.length ∧ parseParams h code ps = some i := by
  cases i with
  | curveLoad h' k ch levels =>
    cases e
    have hlen : levels.length = 256 := by simpa [Instr.wellFormed] using hwf
    exact ⟨by simp [hlen]; rfl, by simp [parseParams, hlen]⟩
  | driveLoad h' ch codes =>
    cases e
    have hlen : codes.length = 128 := by simpa [Instr.wellFormed] using hwf
    exact ⟨by simp [length_halvesBytes, hlen]; rfl,
      by simp [parseParams, bytesHalves_halvesBytes, hlen]⟩
  | powerOn | replyRead | malformedRequestFrame | frameValidRise | imageWordStrobe | frameValidFall
  | encoderTransition | encoderIndexPulse | encoderNoCountTimeout | deadReckoningAdvance | clearProbeSuccess
  | clearProbeFailure | detectInputChange | detectDebounced | paperEnd | changeoverComplete
  | calibrationComplete | flushTimerExpiry | markSensorRise | markSensorFall | bladeDwellEnd
  | bladeReturnTimeout | bladeHomeAsserted | sheetArrival | entranceSensorClear | transitWatchdogExpiry
  | bucketAdvance | pumpPulseEnd | pumpGapEnd | binGateOff | standbyTimerExpiry | wakeTimerExpiry
  | sorterEntranceInputChange => cases e
  | _ =>
    cases e
    exact ⟨rfl, by simp [parseParams, halfBytes, wideBytes, half_extract, wide_extract]⟩

/-- The frame of a code and its parameters, taken on a port. -/
theorem parseTransfer_frame {code : Nat} {ps : List Byte} (hlen : requestLength code = some ps.length)
    (hmax : ps.length ≤ 512) (hcode : 0 < code ∧ code < 256) (p : Port) (tag : Byte) :
    parseTransfer p ([BitVec.ofNat 8 code, tag] ++ halfBytes (BitVec.ofNat 16 ps.length) ++ ps) false =
      parseParams ⟨p, tag⟩ code ps := by
  have hc : (BitVec.ofNat 8 code).toNat = code := by
    rw [BitVec.toNat_ofNat]
    exact Nat.mod_eq_of_lt hcode.2
  have hl : (BitVec.ofNat 16 ps.length).toNat = ps.length := by
    rw [BitVec.toNat_ofNat]
    exact Nat.mod_eq_of_lt (by omega)
  have hread : code ≠ replyReadCode := by
    simp only [replyReadCode]
    omega
  have hshort : ¬ 512 < ps.length := not_lt.2 hmax
  simp [parseTransfer, frameMalformed, halfBytes, hc, half_extract, hl, hlen, hread, hshort]

theorem requestLength_bounds {code n : Nat} (h : requestLength code = some n) :
    n ≤ 512 ∧ 0 < code ∧ code < 256 := by
  simp only [requestLength] at h
  split at h
  · cases h
  · next h0 =>
    obtain ⟨hlt, _⟩ := List.getElem?_eq_some_iff.1 h
    have hlt : code - 1 < 52 := hlt
    have hall : ∀ k < 52, ∀ m, requestLengths[k]? = some m → m ≤ 512 := by decide
    exact ⟨hall _ hlt n h, by omega, by omega⟩

end Sys2Proof.Machine

namespace Sys2Proof.Proofs

open Sys2Proof.Machine Sys2Proof.Machine.State

/-- Settles O4: a request is served by its block's answer, which leaves what the ports hold and present. -/
theorem everyRequestIsAnswered : Obligations.EveryRequestIsAnswered := by
  unfold Obligations.EveryRequestIsAnswered
  refine ⟨fun i code h ps s e => ?_, fun i code h ps s e hp => ?_⟩
  · obtain ⟨a, hexec, ha⟩ := exec_serve e s
    have hplaced : ∃ (v : State) (st : Status) (payload : List Byte), exec i s = .next (v.place h code st payload) ∧
        ∀ p, (v.port p).holder = (s.port p).holder ∧ (v.port p).out = (s.port p).out := by
      by_cases hp : h.port ∈ requestRoles code
      · exact ⟨_, _, _, hexec.trans (serve_open hp), ha.held⟩
      · exact ⟨_, _, _, hexec.trans (serve_closed hp), fun _ => ⟨rfl, rfl⟩⟩
    obtain ⟨v, st, payload, hv, hheld⟩ := hplaced
    have hown := place_port v h code st payload h.port
    rw [if_pos rfl] at hown
    have hout : ((v.place h code st payload).port h.port).out =
        List.replicate (requestFrameLength code) 0 := by rw [hown]
    refine ⟨_, st, payload, hv, by rw [hown], hout, ?_, fun p hp => ?_⟩
    · simp only [dataOut, hout]
      exact presentBits_zeros _
    · rw [place_port, if_neg hp]
      exact hheld p
  · obtain ⟨a, hexec, _⟩ := exec_serve e s
    exact hexec.trans (serve_closed hp)

/-- Settles O5: the three cases of a malformed frame's check, and the holder empty, read whole, or in part. -/
theorem portTransfersAnswerAndEmpty : Obligations.PortTransfersAnswerAndEmpty := by
  unfold Obligations.PortTransfersAnswerAndEmpty
  have hread : ∀ (p : Port) (n : Nat) (s : State), exec (.replyRead p n) s =
      .next (s.modPort (fun _ => PortState.transfer (s.port p) n) p) := fun p n s => by cases p <;> rfl
  have hmod : ∀ (p : Port) (s : State) (f : PortState → PortState), s.modPort f p =
      s.modPort (fun _ => f (s.port p)) p := fun p s f => by cases p <;> rfl
  refine ⟨fun p code rest cut s hcode hbad => ?_, fun p n s => ⟨fun hnone => ?_, fun r hr hlen => ?_,
    fun r hr hlen => ?_⟩⟩
  · show Host.Outcome.next (s.malformed p (code :: rest) cut) = _
    simp only [malformed, if_neg hcode, hbad, if_true]
    rfl
  · rw [hread, hmod p s fun x => { x with out := clocked emptyReply n }]
    simp only [PortState.transfer, hnone]
  · rw [hread, hmod p s fun x => { x with out := clocked (replyBytes r) n, holder := none }]
    simp only [PortState.transfer, hr, if_pos hlen]
  · rw [hread, hmod p s fun x => { x with out := clocked (replyBytes r) n }]
    simp only [PortState.transfer, hr, if_neg (not_le.2 hlen)]

/-- Settles O6: a request's parameters spell it again, and its frame passes the check of R177. -/
theorem requestFrameRoundTrip : Obligations.RequestFrameRoundTrip := by
  unfold Obligations.RequestFrameRoundTrip
  intro i code h ps bytes hwf e hframe
  obtain ⟨hlen, hparse⟩ := parseParams_encodeParams hwf e
  obtain ⟨hmax, hcode⟩ := requestLength_bounds hlen
  simp only [requestFrame, e, Option.some.injEq] at hframe
  subst hframe
  exact (parseTransfer_frame hlen hmax hcode h.port h.tag).trans hparse

/-- Settles O8: each reading request answers from the state it leaves. -/
theorem readingRequestsChangeNothing : Obligations.ReadingRequestsChangeNothing := by
  unfold Obligations.ReadingRequestsChangeNothing
  refine ⟨fun h number state s => ⟨fun i hi => ?_, fun hnone => ?_, fun st hst => ?_, fun hnone => ?_, ?_, ?_, ?_⟩,
    fun h copy entry s => ⟨fun hbad => ?_, fun table htable => ?_⟩⟩
  · exact placed_of (mem_everyPort _) (by simp only [orderStatus, hi]; rfl)
  · exact placed_of (mem_everyPort _) (by simp only [orderStatus, hnone]; rfl)
  · exact placed_of (mem_everyPort _) (by simp only [orderList, hst]; rfl)
  · exact placed_of (mem_everyPort _) (by simp only [orderList, hnone]; rfl)
  · exact placed_of (mem_everyPort _) rfl
  · exact placed_of (mem_everyPort _) rfl
  · exact placed_of (mem_everyPort _) rfl
  · refine placed_of (mem_everyPort _) ?_
    rcases hbad with hcopy | hentry
    · rw [priceRead_of_copy s entry hcopy]
      rfl
    · exact priceRead_of_entry s copy hentry
  · have hread := priceRead_of_table s entry htable
    refine ⟨fun he => placed_of (mem_everyPort _) ?_, fun he => placed_of (mem_everyPort _) ?_⟩
    · rw [hread, if_pos he]
      rfl
    · rw [hread, if_neg (by omega), if_pos he]
      rfl

end Sys2Proof.Proofs
end


section
/-! Rest (O10, O12): what `sync` establishes, and the course of the position under each act. -/

set_option Elab.async false

namespace Sys2Proof.Machine

/-! ### The course of the position (R109, R114) -/

/-- The position is within 48 bits, dead reckoning is in force exactly under the ENCODER condition, and outside a
clear probe it has the position at the base and the counts of the running time. -/
structure Transport.OnCourse (t : Transport) : Prop where
  position : t.position ≤ 281474976710655
  encoder : t.deadReckoning.isSome = t.encoder
  reckoned : ∀ d, t.deadReckoning = some d → d.base ≤ 281474976710655 ∧ (t.probe = none → t.position = d.position)

theorem DeadReckoning.position_le (d : DeadReckoning) : d.position ≤ 281474976710655 :=
  min_le_left _ _

theorem DeadReckoning.position_at_base {n v : Nat} (h : n ≤ 281474976710655) :
    DeadReckoning.position ⟨n, v, 0⟩ = n := by
  simp only [DeadReckoning.position, Config.positionMax]
  omega

namespace Transport.OnCourse

variable {a b : Transport}

theorem of_course (h : a.OnCourse) (e : b.course = a.course) : b.OnCourse := by
  simp only [Transport.course, Prod.mk.injEq] at e
  obtain ⟨hposition, hencoder, hreckoning, hprobe⟩ := e
  have hnone : b.probe = none ↔ a.probe = none := by
    rw [← Option.isNone_iff_eq_none, ← Option.isNone_iff_eq_none, hprobe]
  refine ⟨hposition ▸ h.position, by rw [hencoder, hreckoning]; exact h.encoder, fun d hd => ?_⟩
  obtain ⟨hbase, hpos⟩ := h.reckoned d (hreckoning ▸ hd)
  exact ⟨hbase, fun hn => hposition.trans (hpos (hnone.1 hn))⟩

end Transport.OnCourse

theorem Steering.keeps_onCourse {s t : State} (h : Steering s t) (hs : s.transport.OnCourse) :
    t.transport.OnCourse := by
  cases h with
  | @counts p bound free =>
    refine ⟨bound.elim id fun h => h.trans hs.position, hs.encoder, fun d hd => ⟨(hs.reckoned d hd).1, fun hn => ?_⟩⟩
    rcases free with e | e
    · exact absurd (e.symm.trans hd) (by simp)
    · rw [show s.transport.probe = none from hn] at e; cases e
  | @reckons us d force reckoning =>
    have helapse : (s.elapse us).transport.encoder = s.transport.encoder ∧
        (s.elapse us).transport.deadReckoning =
          s.transport.deadReckoning.map fun d => { d with runUs := d.runUs + us } := by
      simp [State.elapse, force]
    refine ⟨d.position_le, ?_, fun d' hd' => ?_⟩
    · show (s.elapse us).transport.deadReckoning.isSome = (s.elapse us).transport.encoder
      rw [helapse.1, helapse.2, Option.isSome_map, hs.encoder]
    · obtain rfl : d = d' := Option.some.inj (reckoning.symm.trans hd')
      rw [helapse.2] at reckoning
      obtain ⟨x, hx, rfl⟩ := Option.map_eq_some_iff.1 reckoning
      exact ⟨(hs.reckoned x hx).1, fun _ => rfl⟩
  | arises =>
    refine ⟨hs.position, rfl, fun d hd => ?_⟩
    cases hd
    exact ⟨hs.position, fun _ => (DeadReckoning.position_at_base hs.position).symm⟩
  | recovers absent ended bound =>
    exact ⟨bound.trans hs.position, by rw [ended, absent]; rfl, fun d hd => by rw [ended] at hd; cases hd⟩
  | probes => exact ⟨hs.position, hs.encoder, fun d hd => ⟨(hs.reckoned d hd).1, fun hn => by cases hn⟩⟩
  | probeEnds =>
    refine ⟨hs.position, Option.isSome_map.trans hs.encoder, fun d hd => ?_⟩
    obtain ⟨x, _, rfl⟩ := Option.map_eq_some_iff.1 hd
    exact ⟨hs.position, fun _ => (DeadReckoning.position_at_base hs.position).symm⟩

theorem OrderFrame.transport {s t : State} (h : OrderFrame s t) : t.transport = s.transport := by rw [h]

namespace State

theorem sortSheet_course (s : State) (x : Sheet) : (s.sortSheet x).transport.course = s.transport.course := by
  have hreject := (rejectSheet_aside s).course
  have hdiscard : ∀ i k, (s.rejectSheet.discard i k).transport.course = s.transport.course := fun i k => by
    rw [(discard_frame _ i k).transport]; exact hreject
  simp only [sortSheet, sortPrint]
  split
  · split
    · exact hreject
    · split
      · exact hdiscard _ _
      · split
        · simp only [deliver]
          split <;> exact congrArg Transport.course (afterMove_frame _ _).transport
        · exact hdiscard _ _
  · split <;> exact hreject

theorem freeBinList_transport (s : State) (bs : List Nat) : (s.freeBinList bs).transport = s.transport := by
  simp only [freeBinList]
  split <;> rfl

theorem cancel_transport (s : State) (i : Nat) : (s.cancel i).transport = s.transport := by
  have hgive : (s.giveBinList (s.orderAt i).bins).transport = s.transport := by
    simp only [giveBinList]
    split <;> rfl
  simp only [cancel]
  split
  · exact (freeOrder_frame _ i).transport.trans hgive
  · exact (setOrderState_frame _ i .void).transport.trans hgive

theorem afterSkip_transport (s : State) (i : Nat) : (s.afterSkip i).transport = s.transport := by
  simp only [afterSkip]
  split
  · rfl
  · split
    · exact (setOrderState_frame s i _).transport
    · exact (setOrderState_frame s i _).transport
    · rfl

theorem loseHead_transport (s : State) : s.loseHead.transport = s.transport := by
  simp only [loseHead]
  split
  · rfl
  · exact (spoil?_frame _ _).transport

theorem resetActive_transport (s : State) : s.resetActive.transport = s.transport := by
  simp only [resetActive]
  split
  · rfl
  · exact (setOrderState_frame s _ _).transport

theorem dropWeb_transport (s : State) : s.dropWeb.transport = s.transport := by
  simp only [dropWeb]
  split <;> exact (foldl_spoil_frame _ _).transport

end State

open State in
/-- Only steering changes the course. -/
theorem Act.keeps_onCourse {c : Instr} {s t : State} (h : Act c s t) (hs : s.transport.OnCourse) :
    t.transport.OnCourse := by
  have hsame : ∀ {u : State}, u.transport = s.transport → u.transport.OnCourse := fun e => e ▸ hs
  have hframe : ∀ {u : State}, OrderFrame s u → u.transport.OnCourse := fun k => hsame k.transport
  cases h with
  | aside h => exact hs.of_course h.course
  | stores h =>
    obtain ⟨_, _, _, _, _, e⟩ := h.leaves
    exact hsame e
  | steers h => exact h.keeps_onCourse hs
  | opens | addsItem | dropsItem | dropsSlot | notes | gaps => exact hs
  | commits => exact hsame (setOrderState_frame _ _ _).transport
  | withdraws =>
    exact hsame ((freeBinList_transport _ _).trans (setOrderState_frame _ _ _).transport)
  | discards => exact hframe (freeOrder_frame _ _)
  | collects => exact hsame ((freeOrder_frame _ _).transport.trans (freeBinList_transport _ _))
  | cancels => exact hsame (cancel_transport s _)
  | holds => exact hframe (addHold_frame _ _ _)
  | releases => exact hframe ((modOrder_frame _ _ _).trans (leaveHeld_frame _ _))
  | unpapers => exact hframe (releasePaper1_frame _ _)
  | reprints => exact hsame (setOrderState_frame _ _ _).transport
  | skips => exact hsame (afterSkip_transport _ _)
  | empties => exact hsame (freeBinList_transport s _)
  | losesHead => exact hsame (loseHead_transport s)
  | sorts => exact hs.of_course (sortSheet_course _ _)
  | aborts => exact hsame (abortFrame_facts s).1
  | dropsWeb => exact hsame (dropWeb_transport s)
  | resetsActive => exact hsame (resetActive_transport s)
  | cuts => rw [fireCut_tr]; exact hs

/-! ### What `sync` establishes -/

namespace State

theorem syncMotor_motor (s : State) : s.syncMotor.transport.motor = s.motorWanted := by
  simp only [syncMotor]
  split
  · next h => simpa using h
  · split
    · next h => exact h.symm
    · next h => simpa using h

/-- The motor's start or stop leaves what the motor follows. -/
theorem syncMotor_frame (s : State) : ∃ m sp lc pu mt nm, s.syncMotor = { s with transport := { s.transport with
    motor := m, speed := sp, lastCount := lc, pulseUs := pu, matched := mt, nomInUse := nm } } := by
  simp only [syncMotor]
  split
  · exact ⟨_, _, _, _, _, _, rfl⟩
  · split <;> exact ⟨_, _, _, _, _, _, rfl⟩

theorem timer_isSome (s : State) (b : Bool) (t : Option Nat) : (s.timer b t).isSome = b := by
  simp only [timer]
  cases b <;> rfl

theorem and_not_or_self {w : Nat} (a x : BitVec w) : x &&& ~~~(a ||| x) = 0#w := by
  ext k hk
  simp only [BitVec.getElem_and, BitVec.getElem_not, BitVec.getElem_or, BitVec.getElem_zero]
  cases a[k] <;> cases x[k] <;> rfl

theorem syncFlags_flags (s : State) (p : Port) : (s.syncFlags.port p).flags = (s.port p).flags ||| s.conditionWord := by
  cases p <;> rfl

/-- All that rest asks but for the course of the position. -/
theorem sync_facts (s : State) (k : Nat) : (s.sync k).due = Due.none ∧
    (s.sync k).transport.motor = (s.sync k).motorWanted ∧
    (s.sync k).sched.flushTimer.isSome = (s.sync k).flushRuns ∧
    (s.sync k).ctl.standbyTimer.isSome = (s.sync k).standbyRuns ∧
    (s.sync k).engine.presented = (s.sync k).headDrive ∧
    ∀ p, (s.sync k).conditionWord &&& ~~~((s.sync k).port p).flags = 0 := by
  obtain ⟨m, sp, lc, pu, mt, nm, hframe⟩ := syncMotor_frame s
  have hmotor := syncMotor_motor s
  refine ⟨rfl, hmotor.trans ?_, (timer_isSome s s.flushRuns _).trans ?_, (timer_isSome s s.standbyRuns _).trans ?_, ?_,
    fun p => ?_⟩
  · simp only [sync, hframe]; rfl
  · simp only [sync, hframe]; rfl
  · simp only [sync, hframe]; rfl
  · have hhead : ∀ t : State, t.ctl.line = s.ctl.line → t.engine.work = s.engine.work →
        t.engine.presented = s.headDrive → s.headDrive = t.headDrive := fun t hl hw hp => by
      simp only [headDrive, hl, hw, hp]
      split
      · rfl
      · cases s.engine.work with
        | idle => rfl
        | frame c => by_cases e : c.next = 0 <;> simp [e]
        | closing a n => by_cases e : n = 0 <;> simp [e]
    refine hhead (s.sync k) ?_ ?_ rfl
    · simp only [sync, hframe]; rfl
    · simp only [sync, hframe]; rfl
  · simp only [sync, syncFlags_flags]
    exact and_not_or_self _ _

theorem settle_course (before s : State) : (settle before s).transport.course = s.transport.course := by
  have e : (settle before s).lasting.transport.course = s.lasting.transport.course := by rw [settle_lasting]
  exact e

theorem settle_onCourse {before s : State} (h : s.transport.OnCourse) : (settle before s).transport.OnCourse :=
  h.of_course (settle_course before s)

/-- A command carried out on course comes to rest. -/
theorem settle_atRest {before s : State} (h : s.transport.OnCourse) : AtRest (settle before s) := by
  obtain ⟨hposition, hencoder, hreckoned⟩ := settle_onCourse (before := before) h
  obtain ⟨hdue, hmotor, hflush, hstandby, hhead, hflags⟩ := sync_facts
    ((paperEvents before s).endFlush.frameEndSteps.encoderRespond.startPending.schedule.leaveExposing.encoderRespond.startPending)
    before.engine.strobed.length
  exact ⟨hdue, hmotor, hflush, hstandby, hhead, hflags, hposition, hencoder, hreckoned⟩

end State

theorem AtRest.onCourse {s : State} (h : AtRest s) : s.transport.OnCourse := ⟨h.position, h.encoder, h.reckoned⟩

/-- The ports do not matter to rest but for the level flags in their copies. -/
theorem AtRest.of_ports {v t : State} (h : AtRest v) (k : PortsOnly v t) : AtRest t := by
  have hword := k.conditionWord
  have hflags : ∀ p, t.conditionWord &&& ~~~(t.port p).flags = 0 := fun p => by
    rw [hword]
    exact k.flags p (h.flags p)
  rw [k.same] at hflags ⊢
  exact ⟨h.due, h.motor, h.flushTimer, h.standbyTimer, h.head, hflags, h.position, h.encoder, h.reckoned⟩

theorem AtRest.of_elapse {s : State} (h : AtRest s) (still : s.reckons = false) : AtRest (s.elapse 1) := by
  simp only [State.elapse, still, Bool.false_eq_true, if_false]
  exact ⟨h.due, h.motor, h.flushTimer, h.standbyTimer, h.head, h.flags, h.position, h.encoder, h.reckoned⟩

/-- Power-on comes to rest: everything is idle but the standby timer. -/
theorem powerOn_atRest (pending : List Instr) (n : Nat) (valid : Bool) (m1 m2 : Mag) (mark home entrance : Bool)
    (h1 : m1.present = false) (h2 : m2.present = false) :
    AtRest (State.powerOn pending n valid m1 m2 mark home entrance) := by
  have hlow : ∀ m, (State.powerOn pending n valid m1 m2 mark home entrance).magLow m = false := fun m => by
    have habsent : (State.powerOn pending n valid m1 m2 mark home entrance).magState m = .absent := by
      cases m
      · simp only [State.magState]
        rw [show (State.powerOn pending n valid m1 m2 mark home entrance).mag .m1 = m1 from rfl, h1]
        rfl
      · simp only [State.magState]
        rw [show (State.powerOn pending n valid m1 m2 mark home entrance).mag .m2 = m2 from rfl, h2]
        rfl
    simp only [State.magLow, habsent]
  have hcond : ∀ f, (State.powerOn pending n valid m1 m2 mark home entrance).condition f = false := fun f => by
    cases f with
    | paperLow => simp only [State.condition, hlow, Bool.or_self]
    | _ => rfl
  have hword : (State.powerOn pending n valid m1 m2 mark home entrance).conditionWord = 0 := by
    simp only [State.conditionWord, State.conditionBit, hcond, Bool.false_eq_true, if_false]
    decide
  refine ⟨rfl, rfl, rfl, rfl, rfl, fun p => ?_, Nat.zero_le _, rfl, fun d hd => by cases hd⟩
  rw [hword]
  exact BitVec.zero_and

theorem repower_atRest (s : State) : AtRest s.repower := powerOn_atRest _ _ _ _ _ _ _ _ rfl rfl

theorem reset_atRest : AtRest State.reset := powerOn_atRest _ _ _ _ _ _ _ _ rfl rfl

end Sys2Proof.Machine

namespace Sys2Proof.Proofs

open Sys2Proof.Machine Sys2Proof.Machine.State

/-- Settles O12: each act keeps the course of the position, and `sync` brings about the rest. -/
theorem everyStepLeavesTheMachineAtRest : Obligations.EveryStepLeavesTheMachineAtRest := by
  unfold Obligations.EveryStepLeavesTheMachineAtRest
  intro s t hs e
  rcases step_cases e with ⟨rest, rfl⟩ | ⟨c, rest, v, hv, ht⟩ | ⟨still, rfl⟩
  · exact repower_atRest _
  · have hqueue : AtRest { s with pending := rest } :=
      ⟨hs.due, hs.motor, hs.flushTimer, hs.standbyTimer, hs.head, hs.flags, hs.position, hs.encoder, hs.reckoned⟩
    refine AtRest.of_ports ?_ ht
    rcases hv with rfl | ⟨u, hu, rfl⟩
    · exact hqueue
    · exact settle_atRest (hu.keeps (P := fun x => x.transport.OnCourse) (fun _ _ a h => a.keeps_onCourse h)
        hqueue.onCourse)
  · exact hs.of_elapse still

/-- Settles O10: the tables of power-on are within bounds, its book and bins are free, and it is at rest. -/
theorem invariantsHoldAtReset : Obligations.InvariantsHoldAtReset := by
  unfold Obligations.InvariantsHoldAtReset
  exact ⟨reset_storeSound, bookSound_of_free rfl rfl, repower_countsSound State.reset, binsSound_of_free rfl rfl,
    reset_atRest⟩

end Sys2Proof.Proofs
end


section
/-! A step and power-on (O1, O3), coming to rest and finding an order (O16, O17). -/

set_option Elab.async false

namespace Sys2Proof.Machine

namespace State

/-- Under the ENCODER condition no index is checked: the position's move leaves the course. -/
theorem moveTo_course (s : State) (p : Nat) (h : s.transport.encoder = true) :
    (s.moveTo p).transport.course = (p, true, s.transport.deadReckoning, s.transport.probe.isNone) := by
  have hroll := (consumeRoll_aside { s with transport.position := p }).course
  have henc : (consumeRoll { s with transport.position := p }).transport.encoder = true :=
    (congrArg (fun x => x.2.1) hroll).trans h
  have hcheck : (consumeRoll { s with transport.position := p }).checkIndex =
      consumeRoll { s with transport.position := p } := by
    simp only [checkIndex, henc]
    split <;> rfl
  have hcut : ∀ t : State, t.tryCut.transport.course = t.transport.course := fun t => by
    simp only [tryCut]
    split
    · split
      · rw [fireCut_tr]
      · exact (addCause_aside _ _).course
    · rfl
  show (tryCut _).transport.course = _
  rw [hcheck, hcut, (judgeMarks_aside _).course, (writeLines_aside _).course, hroll, ← h]
  rfl

theorem settle_pending (before s : State) : (settle before s).pending = s.pending := by
  have e : (settle before s).lasting.pending = s.lasting.pending := by rw [settle_lasting]
  exact e

theorem pass_pending (s : State) (us : Nat) : (s.pass us).pending = s.pending := by
  rw [pass_frame s us]

end State

theorem yesNo_of_le {b : Byte} (h : b.toNat ≤ 1) : ∃ pre, yesNo b = some pre := by
  have hb : b.toNat = 0 ∨ b.toNat = 1 := by omega
  rcases hb with e | e <;> simp [yesNo, e]

end Sys2Proof.Machine

namespace Sys2Proof.Proofs

open Sys2Proof.Machine Sys2Proof.Machine.State

/-- Settles O1: with the queue empty a step is `idle`, which under dead reckoning is an advance by 1 µs. -/
theorem stepTakesTheFrontCommand : Obligations.StepTakesTheFrontCommand := by
  unfold Obligations.StepTakesTheFrontCommand
  refine ⟨fun c rest s => rfl, fun s hempty => ⟨fun still => ?_, fun force => ?_⟩⟩
  · simp only [step, hempty, idle, elapse, still, Bool.false_eq_true, if_false]
  · have hstep : step s = .next (settle s (s.pass 1)) := by
      simp only [step, hempty, idle, force, if_true]
    have hadvance : exec (.deadReckoningAdvance 1) s = .next (settle s (s.pass 1)) := by
      show event s (s.reckon 1) = _
      simp only [reckon, force, if_true]
      rfl
    refine ⟨hstep.trans hadvance.symm, _, hstep, ?_, ?_, fun d hd henc => ?_⟩
    · rw [settle_now, pass_now]
    · rw [settle_pending, pass_pending, hempty]
    · have helapse : (s.elapse 1).transport.encoder = true ∧
          (s.elapse 1).transport.deadReckoning = some { d with runUs := d.runUs + 1 } := by
        simp [elapse, force, henc, hd]
      have hcourse := (settle_course s (s.pass 1)).trans
        (congrArg (fun x : State => x.transport.course) (pass_reckons s 1 d force hd))
      rw [moveTo_course _ _ helapse.1, helapse.2] at hcourse
      simp only [Transport.course, Prod.mk.injEq] at hcourse
      obtain ⟨hposition, _, hreckoning, _⟩ := hcourse
      exact ⟨hreckoning, hposition⟩

/-- Settles O3: the values of power-on, read off its definition. -/
theorem resetLeavesPowerOnValues : Obligations.ResetLeavesPowerOnValues := by
  unfold Obligations.ResetLeavesPowerOnValues
  refine ⟨?_, fun s => ⟨_, rfl, rfl, rfl, rfl, rfl, rfl, rfl, rfl, rfl, rfl, rfl, rfl, rfl, rfl, rfl, rfl⟩⟩
  rintro s rfl
  refine ⟨⟨rfl, rfl⟩, ⟨rfl, rfl, rfl⟩, ⟨rfl, rfl, by decide +kernel⟩, rfl, rfl,
    ⟨rfl, rfl, rfl, rfl, rfl, rfl, rfl, rfl⟩, by decide +kernel, ?_, ?_, ⟨rfl, rfl⟩, ?_, ?_, ?_, ?_, rfl⟩
  · exact ⟨rfl, rfl, rfl, rfl, rfl, rfl, by decide +kernel⟩
  · exact ⟨rfl, rfl, rfl, rfl, rfl, rfl, rfl, rfl, rfl⟩
  · exact ⟨rfl, rfl, rfl, rfl, rfl, rfl, rfl, rfl, rfl⟩
  · exact ⟨by decide +kernel, rfl, rfl, rfl, rfl, rfl, rfl, rfl, rfl, by decide +kernel⟩
  · exact ⟨rfl, rfl, rfl, rfl, rfl, rfl⟩
  · exact ⟨rfl, rfl, rfl, rfl, rfl, rfl⟩

/-- Settles O16: coming to rest is calm. -/
theorem settleLeavesUndisturbedOrders : Obligations.SettleLeavesUndisturbedOrders := by
  unfold Obligations.SettleLeavesUndisturbedOrders
  intro before s hs
  exact ⟨(settle_calm before s).sound hs, fun i hq ha hp => (settle_calm before s).quiet hs i ⟨hq, ha, hp⟩⟩

/-- Settles O17: live numbers are distinct, and each request looks its number up before anything else it
could refuse. -/
theorem numbersFindTheirOrders : Obligations.NumbersFindTheirOrders := by
  unfold Obligations.NumbersFindTheirOrders
  refine ⟨fun s n i hs => ⟨fun h => findLive_some h, fun ⟨hl, hn⟩ => ?_⟩, fun h n a b k w s hnone ha => ?_⟩
  · cases e : s.findLive n with
    | none => exact absurd hn (findLive_none e i hl)
    | some j =>
      obtain ⟨hlj, hnj⟩ := findLive_some e
      rw [hs.distinct i j hl hlj (hn.trans hnj.symm)]
  · subst ha
    refine ⟨fun hp hb => ?_, fun hp => ?_, fun hp => ?_, fun hp => ?_, ?_⟩
    · obtain ⟨pre, hpre⟩ := yesNo_of_le hb
      have hmem := mem_orderPort hp
      refine ⟨refused_of hmem ?_, refused_of hmem ?_, refused_of hmem ?_, refused_of hmem ?_,
        refused_of hmem ?_⟩
      · simp only [itemAdd, hnone]
      · simp only [itemRemove, hnone]
      · simp only [orderCommit, hpre, hnone]
      · simp only [orderWithdraw, hnone]
      · simp only [orderDiscard, hnone]
    · have hmem := mem_tillPort hp
      refine ⟨refused_of hmem ?_, refused_of hmem ?_, refused_of hmem ?_, refused_of hmem ?_,
        refused_of hmem ?_⟩
      · simp only [orderSettle, hnone]
      · simp only [orderPay, hnone]
      · simp only [orderCollect, hnone]
      · simp only [orderCancel, hnone]
      · simp only [orderReprint, hnone]
    · have hmem := mem_tillAndLine hp
      refine ⟨refused_of hmem ?_, refused_of hmem ?_⟩
      · simp only [orderHold, hnone]
      · simp only [orderRelease, hnone]
    · refine refused_of (mem_linePort hp) ?_
      simp only [itemSkip, hnone]
    · refine refused_of (mem_everyPort _) ?_
      simp only [orderStatus, hnone]

end Sys2Proof.Proofs
end


section
/-! The requests that build an order (O18 to O21). -/

set_option Elab.async false

namespace Sys2Proof.Machine

/-! ### What lasts, with the book and the bins apart -/

namespace State

/-- States that agree in what lasts agree in it with other records, bins and images put in. -/
theorem lasting_with {s t : State} (h : t.lasting = s.lasting) (b : Book) (r : Sorter) (m : ImageStore) :
    ({ t with book := b, sorter := r, images := m } : State).lasting =
      ({ s with book := b, sorter := r, images := m } : State).lasting := by
  have e : ({ t.lasting with
      book := { b with records := b.records.map Order.lasting, queue := [] }
      sorter := { r with bins := [] }, images := m } : State) =
    { s.lasting with
      book := { b with records := b.records.map Order.lasting, queue := [] }
      sorter := { r with bins := [] }, images := m } := by rw [h]
  exact e

/-- A state change that is neither from QUEUED nor to QUEUED, HELD or READY writes the record alone. -/
theorem setOrderState_plain (s : State) {i : Nat} {st : OrderState}
    (hold : (s.orderAt i).state ≠ .queued ∧ (s.orderAt i).state ≠ .active)
    (hst : st ≠ .queued ∧ st ≠ .held ∧ st ≠ .ready) :
    s.setOrderState i st = s.modOrder i fun o => { o with state := st } := by
  obtain ⟨hq, ha⟩ := hold
  obtain ⟨hsq, hsh, hsr⟩ := hst
  simp only [setOrderState]
  cases ho : (s.orderAt i).state <;> cases st <;> simp_all [leaveState, enterState]

/-- An order that is neither QUEUED nor ACTIVE is queued. -/
theorem setOrderState_queued (s : State) {i : Nat}
    (hold : (s.orderAt i).state ≠ .queued ∧ (s.orderAt i).state ≠ .active) :
    s.setOrderState i .queued = (s.modOrder i fun o => { o with state := .queued }).enqueue i := by
  obtain ⟨hq, ha⟩ := hold
  simp only [setOrderState]
  cases ho : (s.orderAt i).state <;> simp_all [leaveState, enterState]

theorem images_of_lasting {s t : State} (h : t.lasting = s.lasting) : t.images = s.images := by
  have e : t.lasting.images = s.lasting.images := by rw [h]
  exact e

/-- An order that is neither QUEUED nor ACTIVE is freed. -/
theorem freeOrder_plain (s : State) {i : Nat}
    (hold : (s.orderAt i).state ≠ .queued ∧ (s.orderAt i).state ≠ .active) :
    s.freeOrder i = ({ s.modOrder i (fun _ => Order.free) with
      images := (s.orderAt i).items.foldl (fun m (x : Item) => m.dropRef x.slot) s.images } : State).raise
        .orderFreed := by
  have hst := s.setOrderState_plain hold (st := .free) (by simp)
  simp only [freeOrder, hst, modOrder, modAt_modAt]

end State

/-! ### The first failing item (R12) -/

namespace State

theorem firstFailing_none {p : Item → Bool} {xs : List Item} (h : ∀ x ∈ xs, p x = true) :
    firstFailing p xs = none := by
  simp only [firstFailing, Option.map_eq_none_iff, List.findIdx?_eq_none_iff]
  intro x hx
  rw [h x hx]
  rfl

theorem firstFailing_some {p : Item → Bool} {xs : List Item} {k : Nat} {x : Item} (hx : xs[k]? = some x)
    (hp : p x = false) (hbefore : ∀ j, j < k → ∀ y, xs[j]? = some y → p y = true) :
    firstFailing p xs = some (k + 1) := by
  obtain ⟨hk, rfl⟩ := List.getElem?_eq_some_iff.1 hx
  have hidx : xs.findIdx? (fun x => !p x) = some k := by
    rw [List.findIdx?_eq_some_iff_getElem]
    refine ⟨hk, by simp [hp], fun j hj => ?_⟩
    have := hbefore j hj xs[j] (List.getElem?_eq_getElem (hj.trans hk))
    simp [this]
  simp only [firstFailing, hidx, Option.map_some]

/-- What R12 makes of a request that names an OPEN order it may commit. -/
theorem orderCommit_checks (s : State) {n : Half} {b : Byte} {pre : Bool} {i : Nat} (hb : yesNo b = some pre)
    (hi : s.findLive n.toNat = some i) (hst : (s.orderAt i).state = .opened)
    (hpre : pre = true → (s.orderAt i).origin = .online) (hne : (s.orderAt i).items ≠ []) :
    s.orderCommit n b =
      match firstFailing s.itemLoaded (s.orderAt i).items with
      | some k => ⟨s, .eImage, [byte k]⟩
      | none => match firstFailing s.itemFits (s.orderAt i).items with
        | some k => ⟨s, .eSize, [byte k]⟩
        | none => match firstFailing s.itemEnabled (s.orderAt i).items with
          | some k => ⟨s, .eProduct, [byte k]⟩
          | none =>
            if !s.indexEnabled (s.orderAt i) then ⟨s, .eProduct, [0]⟩
            else if 400 < ordered (s.orderAt i) then refuse s .eQuantity
            else if 4294967295 ≤ s.book.sequence then refuse s .eLimit
            else s.commit i pre := by
  have horigin : (pre && (s.orderAt i).origin != .online) = false := by
    cases pre with
    | false => rfl
    | true => simp [hpre rfl]
  have hempty : (s.orderAt i).items.isEmpty = false := by simpa using hne
  simp only [orderCommit, hb, hi, hst, horigin, hempty, bne_self_eq_false, Bool.or_self, Bool.false_eq_true,
    if_false] <;> rfl

/-- ORDER_COMMIT's record, its place in the queue and its sequence (R13). -/
theorem commit_state (s : State) {i : Nat} (hst : (s.orderAt i).state = .opened) (pre : Bool) :
    (({ s.modOrder i (fun _ => s.committed (s.orderAt i) pre) with
      book.sequence := s.book.sequence + 1 } : State).setOrderState i .queued) =
    { s with
      book.records := modAt (fun _ => committedRecord s (s.orderAt i) pre) s.book.records i
      book.queue := insertQueue (modAt (fun _ => committedRecord s (s.orderAt i) pre) s.book.records i) i
        s.book.queue
      book.sequence := s.book.sequence + 1
      due.scan := true } := by
  have hl := live_of_state hst (by simp)
  have hat : (({ s.modOrder i (fun _ => s.committed (s.orderAt i) pre) with
      book.sequence := s.book.sequence + 1 } : State).orderAt i).state = .opened := by
    show ((s.modOrder i _).orderAt i).state = _
    rw [modOrder_same s _ (lt_of_live hl)]
    exact hst
  have hrec : ({ s.committed (s.orderAt i) pre with state := .queued } : Order) =
      committedRecord s (s.orderAt i) pre := rfl
  rw [setOrderState_queued _ (by rw [hat]; simp)]
  simp only [enqueue, modOrder, modAt_modAt, hrec]

end State

end Sys2Proof.Machine

namespace Sys2Proof.Proofs

open Sys2Proof.Machine Sys2Proof.Machine.State

/-- Settles O18: the record found is dead, and coming to rest leaves an OPEN record. -/
theorem orderOpenMakesAnOpenRecord : Obligations.OrderOpenMakesAnOpenRecord := by
  unfold Obligations.OrderOpenMakesAnOpenRecord
  refine ⟨fun h a s origin service index i o hp ho hs hi hn hpromo hnone hfirst hrec => ?_,
    fun h a s hp ho hs hi hn hpromo => ⟨fun hdup => ?_, fun hnone hfull => ?_⟩⟩
  · have hopen : s.orderOpen a = done s { s.modOrder i (fun _ => o) with
        engine.bpCounters := modAt (fun _ => 0) s.engine.bpCounters i } [] := by
      simp only [orderOpen, ho, hs, hi, hnone, hfirst, hrec, if_neg (show ¬(a.number.toNat = 0 ∨
        500 < a.promo.toNat) by omega), Option.isSome_none, Bool.false_eq_true, if_false]
      rfl
    refine ⟨served_done (mem_orderPort hp) hopen, fun hsound => ?_⟩
    obtain ⟨hlt, hdead⟩ := firstRecord_some hfirst
    have hbook : BookSound { s.modOrder i (fun _ => o) with
        engine.bpCounters := modAt (fun _ => 0) s.engine.bpCounters i } := by
      refine BookSound.of_book (s := s.modOrder i fun _ => o) ?_ rfl
      refine open_sound hsound hlt ?_ ?_ ?_ ?_ ?_
      · simpa [orderAt] using hdead
      all_goals rw [hrec]
      · exact hn
      · exact hnone
    have hat : ({ s.modOrder i (fun _ => o) with
        engine.bpCounters := modAt (fun _ => 0) s.engine.bpCounters i } : State).orderAt i = o :=
      modOrder_same s _ hlt
    rw [(settle_calm s _).quiet hbook i, hat]
    rw [hat, hrec]
    exact ⟨by simp, by simp, rfl⟩
  · obtain ⟨origin, ho⟩ := Option.isSome_iff_exists.1 ho
    obtain ⟨service, hs⟩ := Option.isSome_iff_exists.1 hs
    obtain ⟨index, hi⟩ := Option.isSome_iff_exists.1 hi
    refine refused_of (mem_orderPort hp) ?_
    simp only [orderOpen, ho, hs, hi, if_neg (show ¬(a.number.toNat = 0 ∨ 500 < a.promo.toNat) by omega),
      if_pos (Option.isSome_iff_ne_none.2 hdup)]
  · obtain ⟨origin, ho⟩ := Option.isSome_iff_exists.1 ho
    obtain ⟨service, hs⟩ := Option.isSome_iff_exists.1 hs
    obtain ⟨index, hi⟩ := Option.isSome_iff_exists.1 hi
    have hnofree : firstRecord (fun o => !o.live) s.book.records = none := by
      cases hf : firstRecord (fun o => !o.live) s.book.records with
      | none => rfl
      | some i =>
        obtain ⟨hlt, hdead⟩ := firstRecord_some hf
        rw [List.getD_eq_getElem?_getD, List.getElem?_eq_getElem hlt] at hdead
        simp [hfull _ (List.getElem_mem hlt)] at hdead
    refine refused_of (mem_orderPort hp) ?_
    simp only [orderOpen, ho, hs, hi, hnone, hnofree, if_neg (show ¬(a.number.toNat = 0 ∨
      500 < a.promo.toNat) by omega), Option.isSome_none, Bool.false_eq_true, if_false]

/-- Settles O19: the checks of R4 and R5 pass, and the edit is what they state. -/
theorem itemRequestsEditAnOpenOrder : Obligations.ItemRequestsEditAnOpenOrder := by
  unfold Obligations.ItemRequestsEditAnOpenOrder
  intro h s i hp hst
  refine ⟨fun a mirror rotate trims x hi hm hr ht hslot hproduct hq1 hq2 hfew hpool himage hx => ?_,
    fun n k x hi hk hx => ?_⟩
  · have hitem : itemOf a = some x := by
      simp only [itemOf, hm, hr, ht, hx, if_pos (show a.slot.toNat ≤ 511 ∧ a.product.toNat ≤ 15 ∧
        within a.qty.toNat 1 99 = true by simp [within]; omega)]
      rfl
    have hxslot : x.slot = a.slot.toNat := by rw [hx]
    have himage : ((s.images.slot a.slot.toNat).state == .free) = false := by simpa using himage
    refine served_done (mem_orderPort hp) ?_
    simp only [itemAdd, hi, hst, hitem, hxslot, himage, bne_self_eq_false, Bool.false_eq_true, if_false,
      if_neg (show ¬ Config.itemsPerOrder ≤ (s.orderAt i).items.length by simp [Config.itemsPerOrder]; omega),
      if_neg (show ¬ Config.itemPool ≤ s.itemsUsed by simp [Config.itemPool]; omega)]
    rfl
  · refine served_done (mem_orderPort hp) ?_
    simp only [itemRemove, hi, hst, hx, if_neg hk, bne_self_eq_false, Bool.false_eq_true, if_false]
    rfl

/-- Settles O20: the checks of R12 in their order. -/
theorem orderCommitLocksAndQueues : Obligations.OrderCommitLocksAndQueues := by
  unfold Obligations.OrderCommitLocksAndQueues
  refine ⟨fun h n b pre s i o r base hp hb hi ho hst hpre hne hitems hindex hfew hseq hr hbase => ?_,
    fun h n b pre s i k o x hp hb hi ho hst hpre hx => ?_⟩
  · subst ho hr
    have hcheck : s.orderCommit n b = s.commit i pre := by
      rw [orderCommit_checks s hb hi hst hpre hne, firstFailing_none fun x hx => (hitems x hx).1,
        firstFailing_none fun x hx => (hitems x hx).2.1, firstFailing_none fun x hx => (hitems x hx).2.2]
      simp only [hindex, Bool.not_true, Bool.false_eq_true, if_false, if_neg (not_lt.2 hfew), if_neg (not_le.2 hseq)]
    refine served_done (mem_orderPort hp) (hcheck.trans ?_)
    simp only [commit, commit_state s hst, ← hbase]
    have hwake : base.ctl = s.ctl := by rw [hbase]
    rw [hwake]
    rfl
  · subst ho
    have hne : (s.orderAt i).items ≠ [] := fun e => by rw [e] at hx; simp at hx
    have hcheck := orderCommit_checks s hb hi hst hpre hne
    refine ⟨fun hfail hbefore => placed_of (mem_orderPort hp) ?_, fun hl hfail hbefore =>
      placed_of (mem_orderPort hp) ?_, fun hl hfail hbefore => placed_of (mem_orderPort hp) ?_⟩
    · rw [hcheck, firstFailing_some hx hfail hbefore]
    · rw [hcheck, firstFailing_none hl, firstFailing_some hx hfail hbefore]
    · rw [hcheck, firstFailing_none fun y hy => (hl y hy).1, firstFailing_none fun y hy => (hl y hy).2,
        firstFailing_some hx hfail hbefore]

/-- Settles O21: a withdrawal goes through OPEN and frees the bins; a discard frees an OPEN record. -/
theorem withdrawReopensAndDiscardFrees : Obligations.WithdrawReopensAndDiscardFrees := by
  unfold Obligations.WithdrawReopensAndDiscardFrees
  refine ⟨fun h n s i o r hp hi ho hr => ⟨fun hst hfresh hpaid => ?_, fun hbad => ?_⟩,
    fun h n s i hp hi => ⟨fun hst => ?_, fun hst => ?_⟩⟩
  · subst ho hr
    have hwithdraw : s.orderWithdraw n = done s (s.withdraw i) [] := by
      simp only [orderWithdraw, hi, hst, hfresh, hpaid, bne_self_eq_false, Option.isSome_none, Bool.or_self,
        Bool.false_eq_true, if_false]
      rfl
    have hat : ∀ j, (s.withdraw i).orderAt j = if j = i then withdrawn (s.orderAt i) else s.orderAt j :=
      fun j => (orderAt_congr (s := s.modOrder i withdrawn) (s.withdraw_records i) j).trans
        (s.modOrder_orderAt _ (live_of_state hst (by simp)) j)
    have hbook : (s.withdraw i).book.queue = (s.setOrderState i .opened).book.queue ∧
        (s.withdraw i).book.sequence = (s.setOrderState i .opened).book.sequence := by
      simp only [withdraw, modOrder_book, freeBinList_book, and_self]
    refine ⟨s.withdraw i, served_done (mem_orderPort hp) hwithdraw, by rw [hat, if_pos rfl]; rfl,
      fun j hj => by rw [hat, if_neg hj], ?_, hbook.2.trans (setOrderState_sequence _ _ _), ?_, ?_⟩
    · rw [hbook.1, setOrderState_queue, if_neg (by simp), queueLeft, if_pos hst]
    · show ((s.setOrderState i .opened).freeBinList _).sorter = _
      rw [freeBinList_sorter, setOrderState_sorter, if_neg (by simp)]
    · have hopen := setOrderState_lasting s i .opened
      have hfree : (s.withdraw i).lasting = ({ s.setOrderState i .opened with
          book := (s.withdraw i).book, sorter := (s.withdraw i).sorter } : State).lasting := by
        simp only [withdraw, freeBinList]
        split <;> rfl
      have hwith := lasting_with hopen (s.withdraw i).book (s.withdraw i).sorter (s.setOrderState i .opened).images
      rw [hfree, hwith, images_of_lasting hopen]
  · refine refused_of (mem_orderPort hp) ?_
    have hrefused : (o.state != .queued || o.started || o.paid.isSome) = true := by
      rcases hbad with hst | hst | hst
      · simp [hst]
      · simp [hst]
      · simp [Option.isSome_iff_ne_none.2 hst]
    simp only [orderWithdraw, hi, ← ho, hrefused, if_true]
  · refine served_done (mem_orderPort hp) ?_
    simp only [orderDiscard, hi, hst, bne_self_eq_false, Bool.false_eq_true, if_false,
      freeOrder_plain s (show (s.orderAt i).state ≠ .queued ∧ (s.orderAt i).state ≠ .active by simp [hst])]
  · refine refused_of (mem_orderPort hp) ?_
    simp only [orderDiscard, hi, if_pos (bne_iff_ne.2 hst)]

end Sys2Proof.Proofs
end


section
/-! Frame starts (R61, R62): what a frame start leaves alone, and that none comes about but under the checks
of R61 (O60). -/

set_option Elab.async false

namespace Sys2Proof.Machine

/-! ### Which frame is written -/

/-- The frame that `t` writes, if it writes one, is the one that `s` writes, further lines apart. -/
def Older (s t : State) : Prop :=
  ∀ f, t.engine.work = .frame f → ∃ g, s.engine.work = .frame g ∧ f = { g with next := f.next }

theorem OrderFrame.engine {s t : State} (h : OrderFrame s t) : t.engine = s.engine := by rw [h]

theorem State.work_ne_frame {s : State} (idle : s.writing = false) (f : FrameContext) :
    s.engine.work ≠ .frame f := fun e => by simp [State.writing, e] at idle

namespace Older

variable {s t u : State}

theorem of_work (h : t.engine.work = s.engine.work) : Older s t := fun f hf => ⟨f, h ▸ hf, rfl⟩

theorem of_engine (h : t.engine = s.engine) : Older s t := of_work (by rw [h])

theorem of_frame (h : OrderFrame s t) : Older s t := of_engine h.engine

theorem of_idle (h : t.writing = false) : Older s t := fun f hf => absurd hf (State.work_ne_frame h f)

theorem refl (s : State) : Older s s := of_engine rfl

theorem trans (h : Older s t) (k : Older t u) : Older s u := fun f hf => by
  obtain ⟨g, hg, e⟩ := k f hf
  obtain ⟨g', hg', e'⟩ := h g hg
  exact ⟨g', hg', by rw [e, e']⟩

end Older

namespace State

theorem freeBinList_engine (s : State) (bs : List Nat) : (s.freeBinList bs).engine = s.engine := by
  simp only [freeBinList]
  split <;> rfl

theorem giveBinList_engine (s : State) (bs : List Nat) : (s.giveBinList bs).engine = s.engine := by
  simp only [giveBinList]
  split <;> rfl

theorem cancel_engine (s : State) (i : Nat) : (s.cancel i).engine = s.engine := by
  simp only [cancel]
  split
  · exact (freeOrder_frame _ i).engine.trans (giveBinList_engine s _)
  · exact (setOrderState_frame _ i _).engine.trans (giveBinList_engine s _)

theorem afterSkip_engine (s : State) (i : Nat) : (s.afterSkip i).engine = s.engine := by
  simp only [afterSkip]
  split
  · rfl
  · split
    · exact (setOrderState_frame _ _ _).engine
    · exact (setOrderState_frame _ _ _).engine
    · rfl

theorem resetActive_engine (s : State) : s.resetActive.engine = s.engine := by
  simp only [resetActive]
  split
  · rfl
  · exact (setOrderState_frame _ _ _).engine

theorem loseHead_engine (s : State) : s.loseHead.engine = s.engine := by
  simp only [loseHead]
  split
  · rfl
  · exact (spoil?_frame _ _).engine

theorem dropWeb_engine (s : State) : s.dropWeb.engine = s.engine := by
  have h := (foldl_spoil_frame (s.cutter.web.filterMap (·.order)) { s with cutter := s.cutter.drop }).engine
  simp only [dropWeb]
  split <;> exact h

theorem deliver_engine (s : State) (i k b : Nat) (inspect : Bool) : (s.deliver i k b inspect).engine = s.engine := by
  simp only [deliver]
  split <;> exact (afterMove_frame _ i).engine

theorem rejectSheet_older (s : State) : Older s s.rejectSheet := (rejectSheet_aside s).work

theorem sortSheet_older (s : State) (x : Sheet) : Older s (s.sortSheet x) := by
  have hdiscard : ∀ i k, Older s (s.rejectSheet.discard i k) := fun i k =>
    (rejectSheet_older s).trans (.of_frame (discard_frame _ i k))
  simp only [sortSheet]
  split
  · simp only [sortPrint]
    split
    · exact rejectSheet_older s
    · split
      · exact hdiscard _ _
      · split
        · exact .of_engine (deliver_engine s _ _ _ _)
        · exact hdiscard _ _
  · split <;> exact rejectSheet_older s

end State

open State in
/-- No act of a command starts a frame. -/
theorem Act.older {c : Instr} {s t : State} (h : Act c s t) : Older s t := by
  cases h with
  | aside h => exact h.work
  | stores h => exact .of_work h.leaves.2.2.2.2.1
  | steers h =>
    obtain ⟨tr, us, rfl⟩ := h.leaves
    exact .of_engine rfl
  | opens | addsItem | dropsItem | dropsSlot | notes => exact .of_engine rfl
  | commits => exact .of_engine (setOrderState_frame _ _ _).engine
  | withdraws =>
    exact .of_engine ((freeBinList_engine _ _).trans (setOrderState_frame _ _ _).engine)
  | discards => exact .of_frame (freeOrder_frame s _)
  | collects => exact .of_engine ((freeOrder_frame _ _).engine.trans (freeBinList_engine s _))
  | cancels => exact .of_engine (cancel_engine s _)
  | holds => exact .of_frame (addHold_frame s _ _)
  | releases => exact .of_engine (leaveHeld_frame _ _).engine
  | unpapers => exact .of_frame (releasePaper1_frame s _)
  | reprints => exact .of_engine (setOrderState_frame _ _ _).engine
  | skips => exact .of_engine (afterSkip_engine _ _)
  | empties => exact .of_engine (freeBinList_engine s _)
  | losesHead => exact .of_engine (loseHead_engine s)
  | sorts => exact sortSheet_older _ _
  | aborts writing =>
    refine .of_idle ?_
    show s.abortFrame.writing = false
    simp only [State.writing, abortFrame_work s writing]
  | dropsWeb => exact .of_engine (dropWeb_engine s)
  | resetsActive => exact .of_engine (resetActive_engine s)
  | cuts => exact .of_engine (fireCut_engine s)
  | gaps => exact .of_idle rfl

theorem Acts.older {c : Instr} {s t : State} (h : Acts c s t) : Older s t :=
  h.keeps (P := fun x => Older s x) (fun _ _ a e => e.trans a.older) (.refl s)

/-! ### A frame start -/

namespace State

theorem copyCorrections_rest (s : State) : s.copyCorrections = { s with engine := s.copyCorrections.engine } := by
  simp only [copyCorrections]
  split <;> rfl

theorem startPrint_frame (s : State) (t : Target) : OrderFrame s (s.startPrint t) := by
  simp only [startPrint]
  split
  · exact (modOrder_frame _ _ _).trans (setOrderState_frame _ _ _)
  · exact modOrder_frame _ _ _

theorem startTarget_rest (s : State) (target : Option Target) :
    (s.startTarget target).ctl = s.ctl ∧ (s.startTarget target).transport = s.transport := by
  cases target with
  | none => exact ⟨rfl, rfl⟩
  | some t =>
    simp only [startTarget]
    split
    · rw [startPrint_frame s t]; exact ⟨rfl, rfl⟩
    · simp only [advanceBackPrint]
      rw [startPrint_frame s t]; exact ⟨rfl, rfl⟩

theorem takeFrame_rest (s : State) (m : MagSlot) (g : Geometry) (target : Option Target) :
    (s.takeFrame m g target).ctl = s.ctl ∧ (s.takeFrame m g target).transport = s.transport := by
  obtain ⟨hctl, htr⟩ := startTarget_rest s.copyCorrections target
  have hcopy : s.copyCorrections.ctl = s.ctl := by rw [copyCorrections_rest]
  exact ⟨hctl.trans hcopy, htr.trans (copyCorrections_tr s)⟩

theorem countFrame_rest (s : State) :
    s.countFrame = { s with cal := s.countFrame.cal, sched.framesSinceCal := s.countFrame.sched.framesSinceCal } := by
  simp only [countFrame]
  split <;> rfl

theorem startFrame_ctl (s : State) (m : MagSlot) (g : Geometry) (target : Option Target) :
    (s.startFrame m g target).ctl = { s.ctl with line := .exposing } := by
  rw [startFrame_eq, writeLines_tr, countFrame_rest, setLine_frame]
  exact congrArg (fun c : LineCtl => { c with line := .exposing }) (s.takeFrame_rest m g target).1

theorem startFrame_encoder (s : State) (m : MagSlot) (g : Geometry) (target : Option Target) :
    (s.startFrame m g target).transport.encoder = s.transport.encoder := by
  have htr := setLine_tr (s.takeFrame m g target) .exposing
  rw [(s.takeFrame_rest m g target).2] at htr
  rw [startFrame_eq, writeLines_tr, countFrame_rest]
  show ((s.takeFrame m g target).setLine .exposing).transport.encoder = _
  rw [htr]

end State

/-! ### The checks of R61 -/

/-- Run-enable is set, the fault set empty, the ENCODER condition absent, and the line EXPOSING. -/
structure Cleared (t : State) : Prop where
  run : t.ctl.runEnable = true
  faults : t.ctl.faults = FaultSet.none
  encoder : t.transport.encoder = false
  line : t.ctl.line = .exposing

/-- The frame that `t` writes, if any, is an older one, or was started under the checks of R61. -/
def Permitted (s t : State) : Prop := Older s t ∨ t.writing = true ∧ Cleared t

namespace Permitted

variable {s t : State}

theorem of_cleared (h : Cleared t) : Permitted s t := by
  cases hw : t.writing with
  | false => exact .inl (.of_idle hw)
  | true => exact .inr ⟨hw, h⟩

theorem older (h : Older s t) : Permitted s t := .inl h

end Permitted

namespace State

theorem firstWait_none {s : State} (h : s.firstWait = .none) :
    s.ctl.runEnable = true ∧ s.ctl.faults = FaultSet.none ∧ s.transport.encoder = false := by
  simp only [firstWait] at h
  split at h
  · cases h
  · split at h
    · cases h
    · simp_all [noFault]

theorem firstWait_of_frameWait {s : State} {a : Nat} (h : s.frameWait a = .none) : s.firstWait = .none := by
  simp only [frameWait] at h
  split at h
  · assumption
  · exact h

theorem startFrame_cleared {s : State} (m : MagSlot) (g : Geometry) (target : Option Target)
    (h : s.firstWait = .none) : Cleared (s.startFrame m g target) := by
  obtain ⟨hrun, hfaults, hencoder⟩ := firstWait_none h
  have hctl := s.startFrame_ctl m g target
  exact ⟨by rw [hctl]; exact hrun, by rw [hctl]; exact hfaults, by rw [startFrame_encoder]; exact hencoder,
    by rw [hctl]⟩

/-! ### Coming to rest -/

theorem paperEvents_older (before s : State) : Older s (paperEvents before s) := by
  have hpaper : Older s s.releasePaper := .of_frame (releasePaper_frame s)
  have hdefer : ∀ b : Bool, Older s (if b then s.releasePaper.defer else s.releasePaper) := fun b => by
    split
    · exact hpaper.trans (defer_aside _).work
    · exact hpaper
  simp only [paperEvents]
  split
  · split
    · exact (hdefer _).trans (dueAttempt_aside _).work
    · exact hdefer _
  · exact .refl s

theorem frameEndSteps_older (s : State) : Older s s.frameEndSteps := by
  have hheld : Older s s.heldAtEnd := by
    simp only [heldAtEnd]
    split
    · split
      · exact .refl s
      · exact .of_frame (setOrderState_frame _ _ _)
    · exact .refl s
  unfold frameEndSteps
  split
  · have hpause := (pauseAtEnd_aside s.heldAtEnd).work
    exact hheld.trans hpause
  · exact .refl s

theorem encoderRespond_older (s : State) : Older s s.encoderRespond := by
  simp only [encoderRespond]
  split
  · split
    · split
      · exact (addCause_aside s _).work
      · exact (startFlush_acts (c := .powerOn) s).older
    · exact (addCause_aside s _).work
    · exact .refl s
  · exact .refl s

theorem scanWalk_engine : ∀ (l : List Nat) (s : State), (s.scanWalk l).engine = s.engine
  | [], _ => rfl
  | i :: rest, s => by
    simp only [scanWalk]
    split
    · exact (scanWalk_engine rest _).trans (addHold_frame s i .paper).engine
    · split
      · next t ht =>
        obtain ⟨_, rfl⟩ := reserve_some ht
        exact (setOrderState_frame _ i .active).engine
      · exact scanWalk_engine rest s

theorem runScan_older (s : State) : Older s s.runScan := by
  simp only [runScan]
  split
  · split
    · exact .of_engine (scanWalk_engine _ _)
    · exact .of_engine rfl
  · exact .refl s

theorem requestChange_older (s : State) (m : MagSlot) : Older s (s.requestChange m) := by
  simp only [requestChange, startChangeover]
  split
  · exact ((setLine_aside _ _).after (.plain rfl rfl rfl rfl rfl rfl rfl)).work
  · refine Older.trans (Aside.work ?_) (startFlush_acts (c := .powerOn) _).older
    exact (setLine_aside _ _).after (.plain rfl rfl rfl rfl rfl rfl rfl)

theorem tryChange_older (s : State) (m : MagSlot) : Older s (s.tryChange m) := by
  simp only [tryChange]
  split
  · exact Older.trans (.of_engine rfl) (requestChange_older _ m)
  · exact .of_engine rfl

theorem attemptTest_permitted (s : State) : Permitted s s.attemptTest := by
  simp only [attemptTest]
  split
  · exact .older (.of_engine rfl)
  · split
    · exact .older (.of_engine rfl)
    · split
      · exact .older (.of_engine rfl)
      · split
        · exact .older (tryChange_older s _)
        · split
          · next h => exact .of_cleared (startFrame_cleared _ _ _ (firstWait_of_frameWait h))
          · exact .older (.of_engine rfl)

theorem attemptOrder_permitted (s : State) (i : Nat) : Permitted s (s.attemptOrder i) := by
  simp only [attemptOrder]
  split
  · exact .older (.of_engine (addHold_frame _ i .paper).engine)
  · exact .older (tryChange_older s _)
  · split
    · simp only [startIfClear]
      split
      · next h => exact .of_cleared (startFrame_cleared _ _ _ (firstWait_of_frameWait h))
      · exact .older (.of_engine rfl)
    · exact .older (.refl s)

theorem attempt_permitted (s : State) : Permitted s s.attempt := by
  simp only [attempt]
  split
  · exact .older (.refl s)
  · split
    · exact .older (.of_engine rfl)
    · simp only [settleAttempt]
      split
      · exact attemptTest_permitted _
      · split
        · exact attemptOrder_permitted _ _
        · exact .older (.of_engine rfl)

end State

namespace Permitted

variable {s t : State}

open State

theorem trans_older {u : State} (h : Older s t) (k : Permitted t u) : Permitted s u :=
  k.imp h.trans id

/-- While a frame is written no scan is made. -/
theorem runScan (h : Permitted s t) : Permitted s t.runScan := by
  rcases h with h | ⟨hw, hc⟩
  · exact .older (h.trans (runScan_older t))
  · simp only [State.runScan]
    split
    · have hno : ({ t with due.scan := false } : State).mayScan = false := by
        simp [mayScan, show State.writing { t with due.scan := false } = true from hw]
      rw [hno]
      exact .inr ⟨hw, ⟨hc.run, hc.faults, hc.encoder, hc.line⟩⟩
    · exact .inr ⟨hw, hc⟩

/-- While a frame is written no attempt is made. -/
theorem runAttempt (h : Permitted s t) : Permitted s t.runAttempt := by
  rcases h with h | ⟨hw, hc⟩
  · refine trans_older h ?_
    simp only [State.runAttempt]
    split
    · exact trans_older (.of_engine rfl) (attempt_permitted _)
    · exact .older (.refl t)
  · simp only [State.runAttempt]
    split
    · have hno : ({ t with due.attempt := false } : State).attempt = { t with due.attempt := false } := by
        simp only [attempt]
        exact if_pos (by rw [show State.writing { t with due.attempt := false } = true from hw]; rfl)
      rw [hno]
      exact .inr ⟨hw, ⟨hc.run, hc.faults, hc.encoder, hc.line⟩⟩
    · exact .inr ⟨hw, hc⟩

/-- An operation that starts no frame and stands still while a cleared one is written. -/
theorem after {f : State → State} (h : Permitted s t) (older : ∀ x, Older x (f x))
    (still : t.writing = true → Cleared t → f t = t) : Permitted s (f t) := by
  rcases h with h | ⟨hw, hc⟩
  · exact .older (h.trans (older t))
  · rw [still hw hc]
    exact .inr ⟨hw, hc⟩

theorem encoderRespond (h : Permitted s t) : Permitted s t.encoderRespond :=
  h.after encoderRespond_older fun _ hc => by simp [State.encoderRespond, hc.encoder]

theorem startPending (h : Permitted s t) : Permitted s t.startPending :=
  h.after (fun x => (startPending_aside x).work) fun hw _ => by
    simp only [State.startPending]
    split
    · rfl
    · exact if_pos hw

theorem leaveExposing (h : Permitted s t) : Permitted s t.leaveExposing :=
  h.after (fun x => (leaveExposing_aside x).work) fun hw _ => by simp [State.leaveExposing, hw]

theorem sync (h : Permitted s t) (k : Nat) : Permitted s (t.sync k) := by
  rcases h with h | ⟨hw, hc⟩
  · exact .older (h.trans (sync_aside t k).work)
  · obtain ⟨_, _, _, _, _, _, e⟩ := syncMotor_frame t
    have hctl : (t.sync k).ctl = { t.ctl with standbyTimer := t.timer t.standbyRuns t.ctl.standbyTimer } := by
      simp only [State.sync, syncFlags_ctl, e]
    refine .inr ⟨?_, ⟨?_, ?_, ?_, ?_⟩⟩
    · simpa only [State.sync, State.writing, syncFlags_engine, e] using hw
    · rw [hctl]; exact hc.run
    · rw [hctl]; exact hc.faults
    · simpa only [State.sync, syncFlags_transport, e] using hc.encoder
    · rw [hctl]; exact hc.line

end Permitted

theorem settle_permitted (before s : State) : Permitted s (State.settle before s) := by
  have hends : Older s (State.paperEvents before s).endFlush.frameEndSteps :=
    ((State.paperEvents_older before s).trans (State.endFlush_aside _).work).trans (State.frameEndSteps_older _)
  have hwork : Permitted s ((State.paperEvents before s).endFlush.frameEndSteps).encoderRespond.startPending :=
    ((Permitted.older hends).encoderRespond).startPending
  exact ((((hwork.runScan.runAttempt.runScan.runAttempt).leaveExposing).encoderRespond).startPending).sync _

end Sys2Proof.Machine

namespace Sys2Proof.Proofs

open Sys2Proof.Machine Sys2Proof.Machine.State

/-- Settles O60: no act of a command starts a frame, and in coming to rest one starts only under the checks
of R61; what comes to rest after that stands still while it is written. -/
theorem framesStartOnlyWhenAllowed : Obligations.FramesStartOnlyWhenAllowed := by
  unfold Obligations.FramesStartOnlyWhenAllowed
  intro c s t f e hf hnew
  by_cases hc : c = .powerOn
  · subst hc
    cases e
    cases hf
  · obtain ⟨v, hv, ht⟩ := exec_reached hc e
    have hpermitted : Permitted s v := by
      rcases hv with rfl | ⟨u, hu, rfl⟩
      · exact .older (.refl _)
      · exact .trans_older hu.older (settle_permitted s u)
    rw [ht.same] at hf ⊢
    rcases hpermitted with h | ⟨_, h⟩
    · obtain ⟨g, hg, e'⟩ := h f hf
      exact absurd e' (hnew g hg)
    · exact ⟨h.run, h.faults, h.encoder, h.line⟩

end Sys2Proof.Proofs
end


section
/-! Images and prices: IMAGE_LOAD, IMAGE_RELEASE and the image link (O22 to O24), the price requests (O25). -/

set_option Elab.async false

namespace Sys2Proof.Machine

/-- An event whose block makes `u` of `s`. -/
theorem happens_event {s u after : State} (e : after = u) : Happens (event s after) s u := by
  rw [e]
  exact State.happens_of rfl

namespace State

theorem raise_flags (s : State) (f : Flag) (p : Port) :
    ((s.raise f).port p).flags = (s.port p).flags ||| flagMask f := by
  cases p <;> rfl

/-! ### Slots and the DRAM -/

theorem slot_modSlot (m : ImageStore) (k j : Nat) (f : ImageSlot → ImageSlot) :
    (m.modSlot k f).slot j = if j = k ∧ k < m.slots.length then f (m.slot k) else m.slot j :=
  getD_modAt f ImageSlot.free m.slots k j

theorem imageLoad_inRange (s : State) {k w v : Half} (hk : k.toNat ≤ 511) (hw : 16 ≤ w.toNat ∧ w.toNat ≤ 6100)
    (hv : 16 ≤ v.toNat ∧ v.toNat ≤ 12200) :
    s.imageLoad k w v =
      if s.images.load.isSome then refuse s .eBusy
      else if (s.images.slot k.toNat).state == .loaded && decide (0 < (s.images.slot k.toNat).refs) then
        refuse s .eInUse
      else if s.images.freePages + (s.images.slot k.toNat).pages.length < pagesFor w.toNat v.toNat then
        refuse s .eMemory
      else accepted s { s with images :=
        { (s.images.modSlot k.toNat fun x => { x with pages := [] }).modSlot k.toNat fun x =>
            { x with
              state := .loading, size := some ⟨w.toNat, v.toNat⟩
              pages := (s.images.modSlot k.toNat fun x => { x with pages := [] }).take
                (pagesFor w.toNat v.toNat) } with
          load := some ⟨k.toNat, 0, false⟩ } } := by
  have hrange : (decide (k.toNat ≤ 511) && within w.toNat 16 6100 && within v.toNat 16 12200) = true := by
    simp [within, hk, hw, hv]
  simp only [imageLoad, hrange, Bool.not_true, Bool.false_eq_true, if_false]

theorem idleSlot_of {x : ImageSlot} (h : x.state = .loaded → x.refs = 0) :
    (x.state == .loaded && decide (0 < x.refs)) = false := by
  by_cases hx : x.state = .loaded
  · simp [h hx]
  · simp [hx]

theorem loadFault_images (s : State) (k : Nat) : ∃ n, (s.loadFault k).images =
    { s.images.modSlot k (fun x =>
        { x with refs := x.refs - n, state := .free, size := none, pages := [] }) with load := none } := by
  refine ⟨total (s.book.records.map fun o =>
    if o.state == .opened then (o.items.filter fun x => x.slot == k).length else 0), ?_⟩
  simp only [loadFault, freeSlot, removeSlotItems, raise_images, ImageStore.modSlot, modAt_modAt]

theorem loadFault_orderAt (s : State) (k i : Nat) : (s.loadFault k).orderAt i =
    if (s.orderAt i).state = .opened then (s.orderAt i).dropSlot k else s.orderAt i := by
  show (s.book.records.map fun o => if o.state == .opened then o.dropSlot k else o).getD i Order.free = _
  simp only [orderAt, List.getD_eq_getElem?_getD, List.getElem?_map, beq_iff_eq]
  cases s.book.records[i]? with
  | none => rfl
  | some o => rfl

theorem storeByte_rest (s : State) (pages : List Nat) (k : Nat) (b : Byte) :
    s.storeByte pages k b = { s with images.dram := (s.storeByte pages k b).images.dram } := by
  simp only [storeByte]
  split <;> rfl

theorem storeByte_read (s : State) (pages : List Nat) (k : Nat) (b : Byte) (h : Memory.wf s.images.dram = true)
    (a : Nat) : Memory.read (s.storeByte pages k b).images.dram a =
      if pageAddress pages k = some a then b else Memory.read s.images.dram a := by
  simp only [storeByte]
  split
  · next x hx => simp only [hx, Option.some.injEq, Memory.read_write _ h, eq_comm]
  · next hx => simp [hx]

theorem takeWord_rest (s : State) (l : Load) (x : ImageSlot) (z : ImageSize) (w : Half) :
    s.takeWord l x z w = { s with
      images.dram := (s.takeWord l x z w).images.dram, images.load := some { l with taken := l.taken + 1 } } := by
  simp only [takeWord]
  split
  · rw [storeByte_rest _ _ (2 * l.taken + 1), storeByte_rest s]
  · rw [storeByte_rest s]

theorem takeWord_read (s : State) (l : Load) (x : ImageSlot) (z : ImageSize) (w : Half)
    (h : Memory.wf s.images.dram = true) (a : Nat) : Memory.read (s.takeWord l x z w).images.dram a =
      if 2 * l.taken + 1 < 3 * z.width * z.height ∧ pageAddress x.pages (2 * l.taken + 1) = some a then
        w.extractLsb' 8 8
      else if pageAddress x.pages (2 * l.taken) = some a then w.extractLsb' 0 8
      else Memory.read s.images.dram a := by
  have hlow := storeByte_read s x.pages (2 * l.taken) (w.extractLsb' 0 8) h a
  simp only [takeWord]
  split
  · next hin =>
    simp only [hin, true_and]
    rw [storeByte_read _ _ _ _ (storeByte_wf _ _ _ _ h), hlow]
  · next hin => simp only [hin, false_and, if_false]; exact hlow

/-- A word strobe of a started load with frame-valid and line-valid asserted. -/
theorem wordStrobe_taken (s : State) (w : Half) {l : Load} {z : ImageSize} (hl : s.images.load = some l)
    (hstarted : l.started = true) (hvalid : s.images.frameValid = true)
    (hz : (s.images.slot l.slot).size = some z) : s.wordStrobe w true =
      if wordsFor z ≤ l.taken then s.loadFault l.slot else s.takeWord l (s.images.slot l.slot) z w := by
  simp only [wordStrobe, hl, hstarted, hvalid, hz, Bool.and_self, if_true]

theorem wordStrobe_idle (s : State) (w : Half) {lv : Bool} (h : s.images.load = none ∨
    s.images.frameValid = false ∨ lv = false ∨ ∃ l, s.images.load = some l ∧ l.started = false) :
    s.wordStrobe w lv = s := by
  simp only [wordStrobe]
  split
  · rfl
  · next l hl =>
    refine if_neg ?_
    rcases h with h | h | h | ⟨l', h, hs⟩
    · simp [hl] at h
    · simp [h]
    · simp [h]
    · rw [hl] at h
      cases h
      simp [hs]

end State

end Sys2Proof.Machine

namespace Sys2Proof.Proofs

open Sys2Proof.Machine Sys2Proof.Machine.State

/-- Settles O22: a load in range passes the checks of R28, or meets the first that fails. -/
theorem imageLoadTakesPages : Obligations.ImageLoadTakesPages := by
  unfold Obligations.ImageLoadTakesPages
  refine ⟨fun h k w v s m hp hk hw1 hw2 hv1 hv2 hload hfree hroom hm => ?_,
    fun h k w v s hp hk hw1 hw2 hv1 hv2 => ?_⟩
  · subst hm
    refine served_accepted (mem_orderPort hp) ?_
    rw [imageLoad_inRange s hk ⟨hw1, hw2⟩ ⟨hv1, hv2⟩, hload, idleSlot_of hfree, if_neg (by simp), if_neg (by simp),
      if_neg (not_lt.2 hroom)]
  · have hload := imageLoad_inRange s hk ⟨hw1, hw2⟩ ⟨hv1, hv2⟩
    refine ⟨fun hbusy => refused_of (mem_orderPort hp) ?_, fun hidle hst hused => refused_of (mem_orderPort hp) ?_,
      fun hidle hfree hfull => refused_of (mem_orderPort hp) ?_⟩
    · rw [hload, if_pos (Option.isSome_iff_ne_none.2 hbusy)]
    · rw [hload, hidle, if_neg (by simp), if_pos (by simp [hst, hused])]
    · rw [hload, hidle, idleSlot_of hfree, if_neg (by simp), if_neg (by simp), if_pos hfull]

/-- Settles O23: a release goes by the slot's state, and a load's fault frees its slot. -/
theorem releaseAndLoadFaultFreeTheSlot : Obligations.ReleaseAndLoadFaultFreeTheSlot := by
  unfold Obligations.ReleaseAndLoadFaultFreeTheSlot
  refine ⟨fun h k s hp hk => ⟨fun hused => refused_of (mem_orderPort hp) ?_, fun hfree =>
    ⟨fun hst => served_done (mem_orderPort hp) ?_, fun hst => served_done (mem_orderPort hp) ?_,
      fun hst => served_done (mem_orderPort hp) ?_⟩⟩, fun s k hk => ?_⟩
  · simp only [imageRelease, if_neg (not_lt.2 hk), if_pos hused]
  · simp only [imageRelease, if_neg (not_lt.2 hk), hfree, lt_irrefl, if_false, hst]
  · simp only [imageRelease, if_neg (not_lt.2 hk), hfree, lt_irrefl, if_false, hst, freeSlot]
  · simp only [imageRelease, if_neg (not_lt.2 hk), hfree, lt_irrefl, if_false, hst]
  · obtain ⟨n, him⟩ := s.loadFault_images k
    have hslot : ∀ j, (s.loadFault k).images.slot j = if j = k then
        { s.images.slot k with
          refs := (s.images.slot k).refs - n, state := .free, size := none, pages := [] }
        else s.images.slot j := fun j => by
      rw [him]
      refine (slot_modSlot s.images k j _).trans ?_
      simp only [hk, and_true]
    refine ⟨?_, ?_, ?_, by rw [him], fun j hj => by rw [hslot, if_neg hj], fun i hi => ?_, fun i hi => ?_,
      fun p => raise_flags _ _ p, by rw [him]; rfl⟩
    · rw [hslot, if_pos rfl]
    · rw [hslot, if_pos rfl]
    · rw [hslot, if_pos rfl]
    · rw [loadFault_orderAt, if_neg hi]
    · rw [loadFault_orderAt, if_pos hi]
      rfl

/-- Settles O24: each edge and each strobe goes by the load in flight. -/
theorem imageLinkRunsTheLoad : Obligations.ImageLinkRunsTheLoad := by
  unfold Obligations.ImageLinkRunsTheLoad
  refine ⟨fun s => ⟨fun hv => happens_event ?_, fun hv => happens_event ?_, fun hidle => happens_event ?_,
    fun l z hv hl hs hz => ⟨fun hall => happens_event ?_, fun hfew => happens_event ?_⟩⟩,
    fun w lv s => ⟨fun hidle => happens_event (wordStrobe_idle s w hidle), fun l z hl hs hv hlv hz =>
      ⟨fun hall => happens_event ?_, fun hfew hwf => ?_⟩⟩⟩
  · simp only [frameRise, hv, if_true]
  · simp only [frameRise, hv, Bool.false_eq_true, if_false]
  · simp only [frameFall]
    rcases hidle with hv | hl | ⟨l, hl, hs⟩
    · simp only [hv, Bool.not_false, if_true]
    · simp only [hl, ite_self]
    · simp only [hl, hs, Bool.not_false, if_true, ite_self]
  · simp only [frameFall, hv, hl, hs, hz, Bool.not_true, Bool.false_eq_true, if_false, if_pos hall]
    rfl
  · simp only [frameFall, hv, hl, hs, hz, Bool.not_true, Bool.false_eq_true, if_false, if_neg (not_le.2 hfew)]
  · rw [hlv, wordStrobe_taken s w hl hs hv hz, if_pos hall]
  · refine ⟨(s.takeWord l (s.images.slot l.slot) z w).images.dram, happens_event ?_, takeWord_read s l _ z w hwf⟩
    rw [hlv, wordStrobe_taken s w hl hs hv hz, if_neg (not_le.2 hfew)]
    exact takeWord_rest s l _ z w

/-- Settles O25: values in range give the entry that is stored. -/
theorem priceRequestsStageAndActivate : Obligations.PriceRequestsStageAndActivate := by
  unfold Obligations.PriceRequestsStageAndActivate
  intro h s hp
  refine ⟨fun a enabled across f p he hw hf hproduct ha1 ha2 hb hc hval => ?_,
    fun a h1 h2 h3 h4 h5 h6 h7 => served_done (mem_tillPort hp) ?_, served_done (mem_tillPort hp) rfl⟩
  · have hentry : productOf a = some p := by
      simp only [productOf, he, hw, hf, hval, if_pos (show a.product.toNat ≤ 15 ∧
        within a.along.toNat 76 610 = true ∧ a.base.toNat ≤ 50000 ∧ a.tierCount.toNat ≤ 3 by
          simp [within]; omega)]
      rfl
    refine ⟨fun hvalid => served_done (mem_tillPort hp) ?_, fun hvalid => refused_of (mem_tillPort hp) ?_⟩
    · simp only [priceStage, hentry, hvalid, Bool.not_true, Bool.false_eq_true, if_false]
    · simp only [priceStage, hentry, hvalid, Bool.not_false, if_true]
  · have hstep : cashStepValid a.cashStep.toNat = true := by
      simpa [cashStepValid] using h7
    simp only [priceStageGlobals, globalsOf, if_pos (show a.express.toNat ≤ 1000 ∧ a.promoMax.toNat ≤ 500 ∧
      a.indexPrice.toNat ≤ 50000 ∧ a.indexProduct.toNat ≤ 15 ∧ a.minCharge.toNat ≤ 50000 ∧
      a.tax.toNat ≤ 3000 ∧ cashStepValid a.cashStep.toNat = true from ⟨h1, h2, h3, h4, h5, h6, hstep⟩)]

end Sys2Proof.Proofs
end


section
/-! The requests on committed orders: settlement, payment and collection (O27), cancellation (O28), holds and
releases (O29), reprints (O30) and skips (O31). -/

set_option Elab.async false

namespace Sys2Proof.Machine

/-! ### What lasts, book, bins and images apart -/

/-- `t` agrees with `s` in what lasts, but for the book, the sorter and the images. -/
def BooksApart (s t : State) : Prop :=
  t.lasting = ({ s with book := t.book, sorter := t.sorter, images := t.images } : State).lasting

namespace BooksApart

variable {s t u : State}

theorem of_lasting (h : t.lasting = s.lasting) : BooksApart s t :=
  State.lasting_with h t.book t.sorter t.images

theorem trans (h : BooksApart s t) (k : BooksApart t u) : BooksApart s u :=
  Eq.trans k (State.lasting_with h u.book u.sorter u.images)

end BooksApart

namespace State

theorem modOrder_apart (s : State) (i : Nat) (f : Order → Order) : BooksApart s (s.modOrder i f) := rfl

theorem setOrderState_apart (s : State) (i : Nat) (st : OrderState) : BooksApart s (s.setOrderState i st) :=
  .of_lasting (setOrderState_lasting s i st)

theorem freeBinList_apart (s : State) (bs : List Nat) : BooksApart s (s.freeBinList bs) := by
  simp only [freeBinList]
  split <;> rfl

theorem giveBinList_apart (s : State) (bs : List Nat) : BooksApart s (s.giveBinList bs) := by
  simp only [giveBinList]
  split <;> rfl

theorem freeOrder_apart (s : State) (i : Nat) : BooksApart s (s.freeOrder i) :=
  (setOrderState_apart s i .free).trans rfl

/-! ### A state change and the return to FREE -/

theorem setOrderState_images (s : State) (i : Nat) (st : OrderState) : (s.setOrderState i st).images = s.images :=
  images_of_lasting (setOrderState_lasting s i st)

theorem freeOrder_images (s : State) (i : Nat) : (s.freeOrder i).images =
    (s.orderAt i).items.foldl (fun m (x : Item) => m.dropRef x.slot) s.images := by
  rw [← setOrderState_images s i .free]
  rfl

theorem freeOrder_queue (s : State) (i : Nat) :
    (s.freeOrder i).book.queue = queueLeft s.book.queue i (s.orderAt i).state :=
  (setOrderState_queue s i .free).trans (if_neg (by simp))

theorem freeOrder_sequence (s : State) (i : Nat) : (s.freeOrder i).book.sequence = s.book.sequence :=
  setOrderState_sequence s i .free

theorem freeOrder_flags (s : State) (i : Nat) (p : Port) :
    ((s.freeOrder i).port p).flags = (s.port p).flags ||| 4 := by
  have hstate := setOrderState_flags s i .free p
  refine (raise_flags _ .orderFreed p).trans ?_
  show ((s.setOrderState i .free).port p).flags ||| 4 = _
  rw [hstate, show OrderState.raised .free = 0#16 from rfl, BitVec.or_zero]

theorem freeBinList_rest (s : State) (bs : List Nat) :
    (s.freeBinList bs).images = s.images ∧ (s.freeBinList bs).ports = s.ports := by
  simp only [freeBinList]
  split <;> exact ⟨rfl, rfl⟩

theorem giveBinList_rest (s : State) (bs : List Nat) :
    (s.giveBinList bs).images = s.images ∧ (s.giveBinList bs).ports = s.ports := by
  simp only [giveBinList]
  split <;> exact ⟨rfl, rfl⟩

theorem port_flags_congr {s t : State} (h : t.ports = s.ports) (p : Port) :
    (t.port p).flags = (s.port p).flags := by
  cases p <;> simp only [port, h]

/-- The record that ORDER_CANCEL leaves before it is VOID or FREE, among the others. -/
theorem giveCancelled_orderAt (s : State) {i : Nat} (hl : (s.orderAt i).live = true) (j : Nat) :
    ((s.giveBinList (s.orderAt i).bins).modOrder i Accounted.cancelled).orderAt j =
      if j = i then Accounted.cancelled (s.orderAt i) else s.orderAt j := by
  rw [modOrder_orderAt _ _ (by rwa [giveBinList_orderAt]), giveBinList_orderAt, giveBinList_orderAt]

theorem cancel_eq (s : State) (i : Nat) : s.cancel i =
    if (s.orderAt i).sum (·.w) = 0 then
      ((s.giveBinList (s.orderAt i).bins).modOrder i Accounted.cancelled).freeOrder i
    else ((s.giveBinList (s.orderAt i).bins).modOrder i Accounted.cancelled).setOrderState i .void := rfl

theorem live_of_find {s : State} {n i : Nat} (h : s.findLive n = some i) : i < s.book.records.length :=
  lt_of_live (findLive_some h).1

/-! ### Holds -/

theorem addHold_has {s : State} {i : Nat} {r : Hold} (h : (s.orderAt i).holds.has r = true) :
    s.addHold i r = s := by
  simp only [addHold, if_pos h]

/-- The condition of R20 is read off the record as it was before the reason is added. -/
theorem holdActs_modOrder (s : State) (i : Nat) (r k : Hold) :
    (s.modOrder i fun o => { o with holds := o.holds.add k }).holdActs i r = s.holdActs i r := by
  have hst : ((s.modOrder i fun o => { o with holds := o.holds.add k }).orderAt i).state = (s.orderAt i).state := by
    rw [orderAt_modOrder]
    split <;> rfl
  simp only [holdActs, hst]
  rfl

theorem addHold_new {s : State} {i : Nat} {r : Hold} (h : (s.orderAt i).holds.has r = false) :
    s.addHold i r = if s.holdActs i r then
      (s.modOrder i fun o => { o with holds := o.holds.add r }).setOrderState i .held
      else s.modOrder i fun o => { o with holds := o.holds.add r } := by
  simp only [addHold, h, Bool.false_eq_true, if_false, holdActs_modOrder]

/-- A hold that takes effect (R20): the record HELD, out of the queue, ORDER_HELD raised. -/
theorem addHold_held {s : State} {i : Nat} {r : Hold} (hl : (s.orderAt i).live = true)
    (h : (s.orderAt i).holds.has r = false) (acts : s.holdActs i r = true) :
    (s.addHold i r).orderAt i = { s.orderAt i with holds := (s.orderAt i).holds.add r, state := .held } ∧
      (∀ j, j ≠ i → (s.addHold i r).orderAt j = s.orderAt j) ∧
      (s.addHold i r).book.queue = queueLeft s.book.queue i (s.orderAt i).state ∧
      (∀ p, ((s.addHold i r).port p).flags = (s.port p).flags ||| 2) ∧
      (s.addHold i r).lasting = ({ s with book := (s.addHold i r).book } : State).lasting := by
  have hlt := lt_of_live hl
  have hat := modOrder_same s (fun o => { o with holds := o.holds.add r }) hlt
  have hlen : i < (s.modOrder i fun o => { o with holds := o.holds.add r }).book.records.length := by
    simpa using hlt
  have hother : ∀ j, j ≠ i → (s.addHold i r).orderAt j = s.orderAt j := fun j hj => addHold_other s r hj
  rw [addHold_new h, if_pos acts] at hother ⊢
  refine ⟨by rw [setOrderState_same _ _ hlen, hat], hother, ?_, fun p => setOrderState_flags _ i .held p,
    setOrderState_book_lasting _ i .held⟩
  rw [setOrderState_queue, if_neg (by simp), hat]
  rfl

theorem committed_of_find {s : State} {n i : Nat} (hi : s.findLive n = some i)
    (hopen : (s.orderAt i).state ≠ .opened) (hready : (s.orderAt i).state ≠ .ready)
    (hvoid : (s.orderAt i).state ≠ .void) : (s.orderAt i).outsideHold = false := by
  have hlive := (findLive_some hi).1
  simp only [Order.live, bne_iff_ne] at hlive
  rw [Order.outsideHold_iff]
  cases h : (s.orderAt i).state <;> simp_all

end State

end Sys2Proof.Machine

namespace Sys2Proof.Proofs

open Sys2Proof.Machine Sys2Proof.Machine.State

/-- Settles O27: the figures come of the record; a collection frees first the bins, then the record. -/
theorem settlePayAndCollect : Obligations.SettlePayAndCollect := by
  unfold Obligations.SettlePayAndCollect
  refine ⟨fun h n w s i o hp hi ho => ?_, fun h n s i o x hp hi ho hst hx => ⟨fun hpaid => ?_, fun hshort => ?_⟩⟩
  · subst ho
    have hbound : w.toNat ≤ 99999999 → ¬Config.moneyBound < w.toNat := fun hw => not_lt.2 hw
    refine ⟨fun l x hl hx => served_done (mem_tillPort hp) ?_,
      fun hw hc hnone hfig => served_done (mem_tillPort hp) ?_,
      fun hw hc hpaid => refused_of (mem_tillPort hp) ?_, fun hw hc hnone hfig => refused_of (mem_tillPort hp) ?_⟩
    · have hsettled : s.settledOf i = some x := by
        rcases hx with ⟨hst, rfl⟩ | ⟨hst, rfl⟩ <;> simp only [settledOf, hst, hl]
      simp only [orderSettle, hi, hsettled]
      rfl
    · simp only [orderPay, hi, if_neg (hbound hw), hc, hnone, Bool.not_true, Bool.false_eq_true, if_false,
        Option.isSome_none, if_neg (not_lt.2 hfig)]
    · simp only [orderPay, hi, if_neg (hbound hw), hc, Bool.not_true, Bool.false_eq_true, if_false,
        Option.isSome_iff_ne_none.2 hpaid, if_true]
    · simp only [orderPay, hi, if_neg (hbound hw), hc, hnone, Bool.not_true, Bool.false_eq_true, if_false,
        Option.isSome_none, if_pos hfig]
  · subst ho
    have hcollect : s.orderCollect n = done s ((s.freeBinList (s.orderAt i).bins).freeOrder i)
        (le32 x.values.f ++ le32 ((s.orderAt i).paid.getD 0) ++
          le32 ((s.orderAt i).paid.getD 0 - x.values.f)) := by
      simp only [orderCollect, hi, hx, hst, bne_self_eq_false, Bool.false_eq_true, if_false, orZero]
      exact if_neg (not_lt.2 hpaid)
    have hlt : i < (s.freeBinList (s.orderAt i).bins).book.records.length := by
      rw [freeBinList_book]
      exact live_of_find hi
    have hat : ∀ j, (s.freeBinList (s.orderAt i).bins).orderAt j = s.orderAt j := freeBinList_orderAt s _
    have hsorter : ((s.freeBinList (s.orderAt i).bins).freeOrder i).sorter =
        s.sorter.modBins (fun _ => Bin.free) (s.orderAt i).bins :=
      (freeOrder_sorter _ i).trans (freeBinList_sorter s _)
    refine ⟨_, served_done (mem_tillPort hp) hcollect, ?_, fun j hj => ?_, ?_, ?_, hsorter, ?_, fun p => ?_,
      (freeBinList_apart s _).trans (freeOrder_apart _ i)⟩
    · rw [freeOrder_orderAt _ _ hlt, if_pos rfl]
    · rw [freeOrder_orderAt _ _ hlt, if_neg hj, hat]
    · rw [freeOrder_queue, hat, hst, freeBinList_book]
      rfl
    · rw [freeOrder_sequence, freeBinList_book]
    · rw [freeOrder_images, hat, (freeBinList_rest s _).1]
    · rw [freeOrder_flags, port_flags_congr (freeBinList_rest s _).2]
  · subst ho
    refine refused_of (mem_tillPort hp) ?_
    simp only [orderCollect, hi, hx, hst, bne_self_eq_false, Bool.false_eq_true, if_false, orZero]
    exact if_pos hshort

/-- Settles O28: a committed order gives up its bins and its pending prints, and is then freed or VOID. -/
theorem cancelFreesOrVoids : Obligations.CancelFreesOrVoids := by
  unfold Obligations.CancelFreesOrVoids
  intro h n s i o r hp hi ho
  subst ho
  refine ⟨fun hst => served_done (mem_tillPort hp) ?_, fun hc hr => ?_⟩
  · simp only [orderCancel, hi, hst, beq_self_eq_true, if_true,
      freeOrder_plain s (show (s.orderAt i).state ≠ .queued ∧ (s.orderAt i).state ≠ .active by simp [hst])]
    rfl
  · have hl := (findLive_some hi).1
    have hr' : r = Accounted.cancelled (s.orderAt i) := hr
    subst hr'
    have hopen : ((s.orderAt i).state == .opened) = false := by
      cases e : (s.orderAt i).state <;> simp [Order.committedState, e] at hc ⊢
    have hcancel : s.orderCancel n = done s (s.cancel i)
        ([if (s.orderAt i).sum (·.w) = 0 then 0 else 7] ++ le32 ((s.orderAt i).paid.getD 0)) := by
      simp only [orderCancel, hi, hopen, hc, Bool.not_true, Bool.false_eq_true, if_false, orZero]
      split <;> rfl
    have hat := s.giveCancelled_orderAt hl
    have hlt : i < ((s.giveBinList (s.orderAt i).bins).modOrder i Accounted.cancelled).book.records.length := by
      simp only [modOrder_book, giveBinList_book, modAt_length]
      exact lt_of_live hl
    have hports : ((s.giveBinList (s.orderAt i).bins).modOrder i Accounted.cancelled).ports = s.ports :=
      (giveBinList_rest s _).2
    have hapart := (giveBinList_apart s (s.orderAt i).bins).trans (modOrder_apart _ i Accounted.cancelled)
    refine ⟨s.cancel i, served_done (mem_tillPort hp) hcancel, ?_⟩
    rw [cancel_eq]
    by_cases hw : (s.orderAt i).sum (·.w) = 0
    · simp only [if_pos hw]
      refine ⟨?_, fun j hj => ?_, ?_, ?_, ?_, ?_, fun p => ?_, hapart.trans (freeOrder_apart _ i)⟩
      · rw [freeOrder_orderAt _ _ hlt, if_pos rfl]
      · rw [freeOrder_orderAt _ _ hlt, if_neg hj, hat, if_neg hj]
      · rw [freeOrder_sorter, modOrder_sorter, giveBinList_sorter]
      · rw [freeOrder_queue, hat, if_pos rfl, modOrder_book, giveBinList_book]
        rfl
      · rw [freeOrder_sequence, modOrder_book, giveBinList_book]
      · rw [freeOrder_images, hat, if_pos rfl, modOrder_images, (giveBinList_rest s _).1]
        exact List.foldl_map
      · rw [freeOrder_flags, port_flags_congr hports]
    · simp only [if_neg hw]
      refine ⟨?_, fun j hj => ?_, ?_, ?_, ?_, ?_, fun p => ?_, hapart.trans (setOrderState_apart _ i _)⟩
      · rw [setOrderState_same _ _ hlt, hat, if_pos rfl]
      · rw [setOrderState_other _ _ hj, hat, if_neg hj]
      · rw [setOrderState_sorter, if_neg (by simp), modOrder_sorter, giveBinList_sorter]
      · rw [setOrderState_queue, if_neg (by simp), hat, if_pos rfl, modOrder_book, giveBinList_book]
        rfl
      · rw [setOrderState_sequence, modOrder_book, giveBinList_book]
      · rw [setOrderState_images, modOrder_images, (giveBinList_rest s _).1]
      · rw [setOrderState_flags, port_flags_congr hports]
        exact BitVec.or_zero

end Sys2Proof.Proofs
end


section
/-! The requests on committed orders, continued: holds and releases (O29), reprints (O30), skips (O31). -/

set_option Elab.async false

namespace Sys2Proof.Machine

namespace State

/-! ### Holds of the ports -/

theorem holdOf_of {p : Port} {r : Hold} (h : p = .till ∧ r = .till ∨ p = .line ∧ r = .operator) :
    p ≠ .order ∧ holdOf p = r ∧ r ≠ .paper ∧ r ≠ .fault := by
  rcases h with ⟨rfl, rfl⟩ | ⟨rfl, rfl⟩ <;> decide

theorem orderHold_inside (s : State) (p : Port) {n : Half} {i : Nat} (hi : s.findLive n.toNat = some i)
    (h : (s.orderAt i).outsideHold = false) : s.orderHold p n = done s (s.addHold i (holdOf p)) [] := by
  simp only [orderHold, hi, h, Bool.false_eq_true, if_false]

theorem orderRelease_inside (s : State) (p : Port) {n : Half} {i : Nat} (hi : s.findLive n.toNat = some i)
    (h : (s.orderAt i).outsideHold = false) :
    s.orderRelease p n = done s ((s.modOrder i fun o => o.release p).leaveHeld i) [] := by
  simp only [orderRelease, hi, h, Bool.false_eq_true, if_false]

/-- A reason of a port, not a paper or fault hold, acts on QUEUED and DRAINING orders, and on an ACTIVE one that
is not being exposed. -/
theorem holdActs_iff (s : State) (i : Nat) {r : Hold} (hpaper : r ≠ .paper) (hfault : r ≠ .fault) :
    s.holdActs i r = true ↔ (s.orderAt i).state = .queued ∨ (s.orderAt i).state = .draining ∨
      (s.orderAt i).state = .active ∧ s.exposes i = false := by
  simp only [holdActs]
  cases h : (s.orderAt i).state <;> simp [hpaper, hfault]

end State

theorem Order.release_eq {o r : Order} {p : Port} (h : p = .till ∧ r = { o with holds.till := false } ∨
    p = .line ∧ r = { o with
      holds.operator := false, holds.fault := false
      items := o.items.map fun x => { x with n.spoil := if 3 < x.n.spoil then 0 else x.n.spoil }
      index := o.index.map fun x => { x with n.spoil := if 3 < x.n.spoil then 0 else x.n.spoil } }) :
    p ≠ .order ∧ o.release p = r ∧ r.state = o.state ∧ r.bins = o.bins := by
  rcases h with ⟨rfl, rfl⟩ | ⟨rfl, rfl⟩
  · exact ⟨by decide, rfl, rfl, rfl⟩
  · exact ⟨by decide, rfl, rfl, rfl⟩

/-! ### Skips -/

/-- The state of an order `o` that a skip has made `r` (R11). -/
def skippedState (o r : Order) : OrderState :=
  if 0 < r.sum (·.p) then o.state
  else if o.state = .queued then (if 0 < r.sum (·.w) then .draining else .ready)
  else if o.state = .active then
    (if 0 < r.sum (·.w) then (if r.holds.isEmpty then .draining else .held) else .ready)
  else o.state

theorem skippedState_moved {o r : Order} (hp : r.sum (·.p) = 0) (hst : o.state = .queued ∨ o.state = .active) :
    skippedState o r = .draining ∨ skippedState o r = .ready ∨ skippedState o r = .held ∧ o.state = .active := by
  simp only [skippedState, hp, lt_irrefl, if_false]
  rcases hst with h | h
  · simp only [h, if_true]
    split <;> simp
  · simp only [h, reduceCtorEq, if_false, if_true]
    split
    · split <;> simp
    · simp

namespace State

theorem raised_stateByCounts (o : Order) : OrderState.raised (stateByCounts o) =
    if stateByCounts o = .ready then 1 else 0 := by
  rcases Order.stateByCounts_cases o with e | e | ⟨e, _⟩ <;> rw [e] <;> rfl

/-- What a skip does to the record: nothing more, or the record takes the state of R11. -/
theorem afterSkip_eq (s : State) (i : Nat) {o : Order} (ho : (s.orderAt i).state = o.state) :
    s.afterSkip i = (if (s.orderAt i).sum (·.p) = 0 ∧ (o.state = .queued ∨ o.state = .active) then
      s.setOrderState i (skippedState o (s.orderAt i)) else s) := by
  simp only [afterSkip]
  by_cases hp : 0 < (s.orderAt i).sum (·.p)
  · rw [if_pos hp, if_neg fun k => absurd k.1 (by omega)]
  · have h0 : (s.orderAt i).sum (·.p) = 0 := by omega
    simp only [h0, lt_irrefl, if_false, true_and]
    cases hst : o.state <;> rw [hst] at ho <;> simp only [ho, reduceCtorEq, or_self, if_false, or_false, or_true,
      if_true]
    case queued =>
      congr 1
      simp [stateByCounts, skippedState, h0, hst]
    case active =>
      congr 1
      simp only [stateByCounts, skippedState, h0, hst, lt_irrefl, if_false, reduceCtorEq, if_true]
      by_cases hw : 0 < (s.orderAt i).sum (·.w)
      · cases he : (s.orderAt i).holds.isEmpty <;> simp [hw]
      · simp [hw]

end State

end Sys2Proof.Machine

namespace Sys2Proof.Proofs

open Sys2Proof.Machine Sys2Proof.Machine.State

/-- Settles O29: a hold acts as R20 says on the record's state, a release moves an order by its counters. -/
theorem holdAndReleaseMoveAnOrder : Obligations.HoldAndReleaseMoveAnOrder := by
  unfold Obligations.HoldAndReleaseMoveAnOrder
  refine ⟨fun h n s i o r hport hi ho => ?_, fun h n s i o r hi ho hopen hready hvoid hrel => ?_⟩
  · subst ho
    obtain ⟨hp, hr, hpaper, hfault⟩ := holdOf_of hport
    have hroles := mem_tillAndLine hp
    refine ⟨fun hst => refused_of hroles ?_, fun hopen hready hvoid => ?_⟩
    · have hout : (s.orderAt i).outsideHold = true := by
        rcases hst with h | h | h <;> simp [Order.outsideHold, h]
      simp only [orderHold, hi, hout, if_true]
    · have hhold := hr ▸ orderHold_inside s h.port hi (committed_of_find hi hopen hready hvoid)
      have hacts := holdActs_iff s i hpaper hfault
      refine ⟨fun hhas => served_done hroles ?_, fun hnew hst => served_done hroles ?_, fun hnew hst =>
        ⟨s.addHold i r, served_done hroles hhold, ?_⟩⟩
      · rw [hhold, addHold_has hhas]
      · have hno : ¬ s.holdActs i r = true := by
          rw [hacts]
          rcases hst with e | ⟨e, hexp⟩
          · simp [e]
          · simp [e, hexp]
        rw [hhold, addHold_new hnew, if_neg hno]
      · exact addHold_held (findLive_some hi).1 hnew (hacts.2 hst)
  · subst ho
    obtain ⟨hp, hr, hstate, hbins⟩ := Order.release_eq hrel
    have hlt := live_of_find hi
    have hat : (s.modOrder i fun o => o.release h.port).orderAt i = r := by rw [modOrder_same _ _ hlt, hr]
    have hlen : i < (s.modOrder i fun o => o.release h.port).book.records.length := by simpa using hlt
    have hother : ∀ j, j ≠ i → ((s.modOrder i fun o => o.release h.port).leaveHeld i).orderAt j = s.orderAt j :=
      fun j hj => (leaveHeld_other _ hj).trans (modOrder_other s _ hj)
    have hserved := orderRelease_inside s h.port hi (committed_of_find hi hopen hready hvoid)
    refine ⟨_, served_done (mem_tillAndLine hp) hserved, ?_⟩
    have hleaves : (s.modOrder i fun o => o.release h.port).leaveHeld i =
        if (s.orderAt i).state = .held ∧ r.holds.isEmpty = true then
          (s.modOrder i fun o => o.release h.port).setOrderState i (stateByCounts r)
        else s.modOrder i fun o => o.release h.port := by
      simp only [leaveHeld, hat, hstate, Bool.and_eq_true, beq_iff_eq]
    rw [hleaves] at hother ⊢
    by_cases hleave : (s.orderAt i).state = .held ∧ r.holds.isEmpty = true
    · simp only [if_pos hleave] at hother ⊢
      have hrec := setOrderState_same (s.modOrder i fun o => o.release h.port) (stateByCounts r) hlen
      rw [hat] at hrec
      refine ⟨hrec, hother, fun _ _ hpos => ?_, fun p => ?_, fun hst b hb h1 h2 => ?_,
        setOrderState_book_lasting _ i _⟩
      · have hqueued : stateByCounts r = .queued := by simp only [stateByCounts, if_pos hpos]
        rw [hqueued, setOrderState_queue, if_pos rfl, setOrderState_records, hat, queueLeft, if_neg]
        · rfl
        · rw [hstate, hleave.1]
          simp
      · rw [setOrderState_flags, hrec, raised_stateByCounts]
        rfl
      · rw [hrec] at hst
        rw [show stateByCounts r = .ready from hst]
        exact setOrderState_ready_bins _ i hlen b (by rw [hat, hbins]; exact hb) h1 h2
    · simp only [if_neg hleave] at hother ⊢
      refine ⟨hat, hother, fun hst he => absurd ⟨hst, he⟩ hleave, fun p => ?_, fun hst => ?_, rfl⟩
      · rw [hat, hstate, if_neg hready]
        exact BitVec.or_zero.symm
      · rw [hat, hstate] at hst
        exact absurd hst hready

/-- Settles O30: the courtesy prints are added, the bins reopened, and the order takes its place. -/
theorem reprintQueuesAReadyOrder : Obligations.ReprintQueuesAReadyOrder := by
  unfold Obligations.ReprintQueuesAReadyOrder
  intro h n k m s i o x hp hi ho hst hk hm1 hm2 hx
  subst ho
  have hcheck : ¬(k.toNat = 0 ∨ ¬within m.toNat 1 9 = true) := by
    simp [within, hk, hm1, hm2]
  refine ⟨fun hc hfew => ?_, fun hmany => refused_of (mem_tillPort hp) ?_⟩
  · have hlt := live_of_find hi
    have hmove : ((s.moveCounts i k.toNat fun c => { c with c := c.c + m.toNat, p := c.p + m.toNat }).reopenBins
        (s.orderAt i).bins).orderAt i = { s.orderAt i with
          items := modAt (fun x => { x with n := { x.n with c := x.n.c + m.toNat, p := x.n.p + m.toNat } })
            (s.orderAt i).items (k.toNat - 1) } := by
      refine (modOrder_same s _ hlt).trans ?_
      simp only [Order.modCounts, if_neg hk]
    have hqueued := setOrderState_queued ((s.moveCounts i k.toNat fun c =>
      { c with c := c.c + m.toNat, p := c.p + m.toNat }).reopenBins (s.orderAt i).bins) (i := i)
      (by rw [hmove]; simp [hst])
    have hlen : i < ((s.moveCounts i k.toNat fun c => { c with c := c.c + m.toNat, p := c.p + m.toNat }).reopenBins
        (s.orderAt i).bins).book.records.length := by simpa using hlt
    refine ⟨((s.moveCounts i k.toNat fun c => { c with c := c.c + m.toNat, p := c.p + m.toNat }).reopenBins
      (s.orderAt i).bins).setOrderState i .queued, served_done (mem_tillPort hp) ?_, ?_, fun j hj => ?_, ?_, ?_, ?_⟩
    · simp only [orderReprint, hi, hst, bne_self_eq_false, Bool.false_eq_true, if_false, if_neg hcheck, hx,
        if_neg (show ¬(20 < x.n.c + m.toNat ∨ 400 < printsWith (s.orderAt i) m.toNat) by omega)]
      rw [show State.ctl (setOrderState _ i .queued) = s.ctl by rw [hqueued]; rfl]
    · rw [setOrderState_same _ _ hlen, hmove]
    · rw [setOrderState_other _ _ hj]
      exact modOrder_other s _ hj
    · rw [setOrderState_queue, if_pos rfl, setOrderState_records, queueLeft, if_neg]
      · rfl
      · rw [hmove]
        simp [hst]
    · rw [setOrderState_sorter, if_neg (by simp)]
      rfl
    · rw [hqueued]
      rfl
  · simp only [orderReprint, hi, hst, bne_self_eq_false, Bool.false_eq_true, if_false, if_neg hcheck, hx,
      if_pos hmany]

/-- Settles O31: the record takes the state of R11 when the skip leaves it no pending print. -/
theorem itemSkipMovesPendingToSkipped : Obligations.ItemSkipMovesPendingToSkipped := by
  unfold Obligations.ItemSkipMovesPendingToSkipped
  intro h n k s i o r c hp hi ho hopen hready hvoid hc hr
  subst ho
  have hlt := live_of_find hi
  have hin := committed_of_find hi hopen hready hvoid
  have hskip : s.itemSkip n k = done s ((s.moveCounts i k.toNat fun m => { m with p := 0, s := m.s + m.p }).afterSkip
      i) [byte c.p] := by
    simp only [itemSkip, hi, hin, Bool.false_eq_true, if_false, hc]
  have hat : (s.moveCounts i k.toNat fun m => { m with p := 0, s := m.s + m.p }).orderAt i = r := by
    rw [hr]
    exact modOrder_same s _ hlt
  obtain ⟨hstate, _, hbins, _, _⟩ := modCounts_rest (s.orderAt i) k.toNat fun m =>
    { m with p := 0, s := m.s + m.p }
  rw [← hr] at hstate hbins
  have hafter := afterSkip_eq (s.moveCounts i k.toNat fun m => { m with p := 0, s := m.s + m.p }) i
    (o := s.orderAt i) (by rw [hat, hstate])
  rw [hat] at hafter
  have hlen : i < (s.moveCounts i k.toNat fun m => { m with p := 0, s := m.s + m.p }).book.records.length := by
    simpa using hlt
  refine ⟨_, served_done (mem_linePort hp) hskip, ?_⟩
  rw [hafter]
  by_cases hmove : r.sum (·.p) = 0 ∧ ((s.orderAt i).state = .queued ∨ (s.orderAt i).state = .active)
  · obtain ⟨hpend, hst⟩ := hmove
    rw [if_pos ⟨hpend, hst⟩]
    have hrec := setOrderState_same (s.moveCounts i k.toNat fun m => { m with p := 0, s := m.s + m.p })
      (skippedState (s.orderAt i) r) hlen
    rw [hat] at hrec
    have hnq : skippedState (s.orderAt i) r ≠ .queued := by
      rcases skippedState_moved hpend hst with e | e | ⟨e, _⟩ <;> rw [e] <;> simp
    refine ⟨hrec, fun j hj => (setOrderState_other _ _ hj).trans (modOrder_other s _ hj), ?_, fun p => ?_,
      fun hrd b hb h1 h2 => ?_, setOrderState_book_lasting _ i _⟩
    · rw [setOrderState_queue, if_neg hnq, hat, queueLeft, hstate]
      simp only [hpend, and_true]
      rfl
    · rw [setOrderState_flags, hrec]
      rcases skippedState_moved hpend hst with e | e | ⟨e, ha⟩
      · simp only [e, reduceCtorEq, if_false, and_false]
        rfl
      · simp only [e, if_true]
        rfl
      · simp only [e, ha, reduceCtorEq, if_false, and_self, if_true]
        rfl
    · rw [hrec] at hrd
      rw [show skippedState (s.orderAt i) r = .ready from hrd]
      exact setOrderState_ready_bins _ i hlen b (by rw [hat, hbins]; exact hb) h1 h2
  · rw [if_neg hmove]
    have hstay : skippedState (s.orderAt i) r = (s.orderAt i).state := by
      simp only [skippedState]
      split
      · rfl
      · rw [if_neg fun k => hmove ⟨by omega, .inl k⟩, if_neg fun k => hmove ⟨by omega, .inr k⟩]
    refine ⟨?_, fun j hj => modOrder_other s _ hj, ?_, fun p => ?_, fun hrd => ?_, rfl⟩
    · rw [hat]
      show r = { r with state := skippedState (s.orderAt i) r }
      rw [hstay, ← hstate]
    · rw [if_neg fun k => hmove ⟨k.2, .inl k.1⟩]
      rfl
    · rw [hat, hstate, if_neg hready, if_neg fun k => by rw [k.1] at k; exact absurd k.2 (by simp)]
      exact BitVec.or_zero.symm
    · rw [hat, hstate] at hrd
      exact absurd hrd hready

end Sys2Proof.Proofs
end


section
/-! The settings requests (O38 to O40), the magazine requests (O41), pattern mode and test prints (O37). -/

set_option Elab.async false

namespace Sys2Proof.Machine

theorem within_of {x lo hi : Nat} (h : lo ≤ x) (k : x ≤ hi) : within x lo hi = true := by
  simp [within, h, k]

theorem windowOf_of {a : WindowArg} {k : Bank} (hk : bankOf a.bank = some k) (h : a.base.toNat ≤ a.limit.toNat) :
    windowOf a = some ⟨a.base.toNat, a.limit.toNat, k⟩ := by
  simp only [windowOf, hk, if_pos h]

namespace State

theorem pathOpen_iff (s : State) :
    s.pathOpen = true ↔ s.ctl.line = .stopped ∨ s.ctl.line = .standby ∨ s.ctl.line = .fault := by
  simp only [pathOpen]
  cases s.ctl.line <;> simp

theorem pathOpen_false {s : State} (h1 : s.ctl.line ≠ .stopped) (h2 : s.ctl.line ≠ .standby)
    (h3 : s.ctl.line ≠ .fault) : s.pathOpen = false := by
  rw [Bool.eq_false_iff, ne_eq, pathOpen_iff]
  simp [h1, h2, h3]

theorem atWork_iff (s : State) : s.atWork = true ↔ s.ctl.line = .flushing ∨ s.ctl.line = .changeover := by
  simp only [atWork]
  cases s.ctl.line <;> simp

/-- A cause added during a flush stops it: FAULT, with a scan and an attempt event. -/
theorem causeOnLine_flushing {s : State} (h : s.ctl.line = .flushing) :
    s.causeOnLine.ctl.line = .fault ∧ s.causeOnLine.due.attempt = true := by
  simp only [causeOnLine, h]
  exact ⟨congrArg LineCtl.line (setLine_ctl _ _), rfl⟩

theorem copyNow_waiting {s : State} (h : s.engine.waiting = true) : s.copyNow =
    if s.ctl.line = .exposing ∨ s.engine.hold = true then s
    else { s with engine.live := s.engine.staged, engine.waiting := false } := by
  simp only [copyNow, copyCorrections, h]
  by_cases hl : s.ctl.line = .exposing
  · simp [hl]
  · cases hh : s.engine.hold <;> simp [hl]

theorem copyNow_eq (s : State) : s.copyNow =
    if s.ctl.line = .exposing ∨ s.engine.hold = true ∨ s.engine.waiting = false then s
    else { s with engine.live := s.engine.staged, engine.waiting := false } := by
  cases hw : s.engine.waiting with
  | true =>
    rw [copyNow_waiting hw]
    simp
  | false => simp [copyNow, copyCorrections, hw]

theorem curveLoad_inRange (s : State) {fb cb : Byte} {f : Surface} {c : Channel} {ls : List Byte}
    (hf : surfaceOf fb = some f) (hc : channelOf cb = some c) (hn : ls.length = 256)
    (hv : ∀ x ∈ ls, x.toNat ≤ 127) : s.curveLoad fb cb ls =
      if !s.tablesOpen then refuse s .eState
      else done s { s with
        engine.curves := surfaceMod (fun v => rgbMod (fun _ => ls.map BitVec.toNat) v c) s.engine.curves f } [] := by
  have hlen : ¬ (ls.map BitVec.toNat).length ≠ 256 := by simpa using hn
  have hall : ((ls.map BitVec.toNat).all fun l => decide (l ≤ 127)) = true := by simpa using hv
  simp only [curveLoad, if_neg hlen, hf, hc, hall, Bool.not_true, Bool.false_eq_true, if_false]

theorem driveLoad_inRange (s : State) {cb : Byte} {c : Channel} {ls : List Half}
    (hc : channelOf cb = some c) (hn : ls.length = 128) (hv : ∀ x ∈ ls, x.toNat ≤ 1023) : s.driveLoad cb ls =
      if !s.tablesOpen then refuse s .eState
      else if !nonDecreasing (ls.map BitVec.toNat) then refuse s .eTable
      else done s { s with engine.drive := rgbMod (fun _ => ls.map BitVec.toNat) s.engine.drive c } [] := by
  have hlen : ¬ (ls.map BitVec.toNat).length ≠ 128 := by simpa using hn
  have hall : ((ls.map BitVec.toNat).all fun l => decide (l ≤ 1023)) = true := by simpa using hv
  simp only [driveLoad, if_neg hlen, hc, hall, Bool.not_true, Bool.false_eq_true, if_false]

theorem rollSet_eq (s : State) {b : Byte} {w : Wide} {m : MagSlot} {r : Remaining} (hm : magSlotOf b = some m)
    (hr : remainingOf w = some r) : s.rollSet b w =
      if s.magState m = .absent ∨ s.magState m = .unusable ∨
          s.transport.threaded = some m ∧ (s.mag m).endSeen = true then refuse s .eState
      else done s (s.modMag (fun g =>
        { g with remaining := r, endSeen := false, carry := 0 }) m).releasePaper.dueAttempt [] := by
  simp only [rollSet, hm, hr]
  by_cases ha : s.magState m = .absent
  · simp [ha]
  · by_cases hu : s.magState m = .unusable
    · simp [hu]
    · simp [ha, hu]

theorem testPrint_inRange (s : State) {b n : Byte} {m : MagSlot} (hm : magSlotOf b = some m) (h1 : 1 ≤ n.toNat)
    (h2 : n.toNat ≤ 20) : s.testPrint b n =
      if !s.cal.pattern then refuse s .eState
      else if s.cal.test.isSome then refuse s .eBusy
      else done s { s with cal.test := some ⟨m, n.toNat⟩ }.dueAttempt [] := by
  simp only [testPrint, hm, within_of h1 h2, Bool.not_true, Bool.false_eq_true, if_false]

theorem patternSet_outside (s : State) {b : Byte} {on : Bool} (hb : yesNo b = some on) (hl : s.ctl.line ≠ .exposing)
    (hw : s.writing = false) : s.patternSet b =
      if on == s.cal.pattern then done s s []
      else done s (if s.atWork then
          (if on then { s with cal.pattern := true } else { s with cal.pattern := false, cal.test := none }).defer
        else if on then { s with cal.pattern := true }
        else ({ s with cal.pattern := false, cal.test := none } : State).dueScan.dueAttempt) [] := by
  have hno : ¬ (s.ctl.line == .exposing || s.writing) = true := by simp [hl, hw]
  simp only [patternSet, hb, if_neg hno]
  cases on <;> rfl

end State

end Sys2Proof.Machine

namespace Sys2Proof.Proofs

open Sys2Proof.Machine Sys2Proof.Machine.State

/-- Settles O38: values in range pass the check of each request. -/
theorem settingsRequestsStoreTheirValues : Obligations.SettingsRequestsStoreTheirValues := by
  unfold Obligations.SettingsRequestsStoreTheirValues
  intro h s hp
  have hl := mem_linePort hp
  refine ⟨fun ref n r1 r2 g1 g2 b1 b2 hn => served_done hl ?_, fun b e x y hb hxy hy => served_done hl ?_,
    fun a p1 p2 l1 l2 t1 t2 o d1 d2 => ?_, fun a b x y hx hy ha hb => served_done hl ?_⟩
  · simp only [calRefSet, within_of r1 r2, within_of g1 g2, within_of b1 b2, within_of (Nat.zero_le _) hn,
      Bool.and_self, Bool.not_true, Bool.false_eq_true, if_false]
  · have hin : ¬(12199 < x.toNat ∨ 12199 < y.toNat ∨ y.toNat ≤ x.toNat) := by omega
    simp only [backprintConfig, hb, if_neg hin]
  · have hcheck : s.cutterConfig a = if !s.pathOpen then refuse s .eState else done s { s with
        cutter.markPath := a.markPath.toNat, cutter.blank := a.blank.toNat, cutter.markTol := a.markTol.toNat
        cutter.cutOffset := a.cutOffset.toNat, cutter.cutDwell := a.cutDwell.toNat } [] := by
      simp only [cutterConfig, within_of p1 p2, within_of l1 l2, within_of t1 t2, within_of (Nat.zero_le _) o,
        within_of d1 d2, Bool.and_self, Bool.not_true, Bool.false_eq_true, if_false]
    refine ⟨fun hopen => served_done hl ?_, fun h1 h2 h3 => refused_of hl ?_⟩
    · rw [hcheck, (pathOpen_iff s).2 hopen]
      rfl
    · rw [hcheck, pathOpen_false h1 h2 h3]
      rfl
  · simp only [routeSet, windowOf_of hx ha, windowOf_of hy hb]
    rfl

/-- Settles O39: the check for a timer already past its end is part of each request. -/
theorem timedSettingsActAtOnce : Obligations.TimedSettingsActAtOnce := by
  unfold Obligations.TimedSettingsActAtOnce
  intro h s hp
  have hl := mem_linePort hp
  refine ⟨fun c v d c1 c2 v1 v2 d1 d2 => ?_, fun a x y z u ht hx hy hz hu => served_done hl ?_,
    fun a m b1 b2 u1 u2 p1 p2 t1 t2 o1 o2 hm => served_done hl ?_⟩
  · have hcheck : s.pathConfig c v d = if !s.pathOpen then refuse s .eState else done s ({ s with
        transport.countsPerRev := c.toNat, transport.speedNom := v.toNat
        sched.flushDelay := d.toNat } : State).checkFlush [] := by
      simp only [pathConfig, within_of c1 c2, within_of v1 v2, within_of d1 d2, Bool.and_self, Bool.not_true,
        Bool.false_eq_true, if_false]
    refine ⟨fun hopen u hu => served_done hl ?_, fun h1 h2 h3 => refused_of hl ?_⟩
    · rw [hcheck, (pathOpen_iff s).2 hopen, hu]
      rfl
    · rw [hcheck, pathOpen_false h1 h2 h3]
      rfl
  · simp only [standbyConfig, hx, hy, hz, if_neg (show ¬ 120 < a.timeout.toNat by omega), hu]
    rfl
  · simp only [processorConfig, within_of b1 b2, within_of u1 u2, within_of p1 p2, within_of t1 t2, within_of o1 o2,
      Bool.and_self, Bool.not_true, Bool.false_eq_true, if_false, hm]
    rfl

/-- Settles O40: a staged correction goes live at once but when EXPOSING or held back; tables need a free line. -/
theorem exposureSettingsAreStored : Obligations.ExposureSettingsAreStored := by
  unfold Obligations.ExposureSettingsAreStored
  refine ⟨fun h s hp => ⟨fun b f v c st hb hv hst => served_done (mem_linePort hp) ?_,
      fun b on hb => served_done (mem_linePort hp) ?_⟩,
    fun h s hp => ⟨fun fb cb f c ls hf hc hn hv => ⟨fun hopen => served_done (mem_linePort hp) ?_,
        fun hshut => refused_of (mem_linePort hp) ?_⟩,
      fun cb c ls hc hn hv => ⟨fun hopen hmono => served_done (mem_linePort hp) ?_,
        fun hopen hfall => refused_of (mem_linePort hp) ?_, fun hshut => refused_of (mem_linePort hp) ?_⟩⟩⟩
  · simp only [correctionSet, hb, hv, hst, copyNow_waiting]
  · simp only [correctionHold, hb, copyNow_eq]
  · rw [curveLoad_inRange s hf hc hn hv, hopen]
    rfl
  · rw [curveLoad_inRange s hf hc hn hv, hshut]
    rfl
  · rw [driveLoad_inRange s hc hn hv, hopen, hmono]
    rfl
  · rw [driveLoad_inRange s hc hn hv, hopen, hfall]
    rfl
  · rw [driveLoad_inRange s hc hn hv, hshut]
    rfl

/-- Settles O41: the slot's settings are replaced, then the change of presence they bring is taken. -/
theorem magazineRequestsActOnTheSlots : Obligations.MagazineRequestsActOnTheSlots := by
  unfold Obligations.MagazineRequestsActOnTheSlots
  intro h s hp
  have hl := mem_linePort hp
  refine ⟨fun b c m p hm hc => ⟨fun hsoft => served_done hl ?_, fun hhard => refused_of hl ?_⟩,
    fun a x1 r1 x2 r2 h1 h2 h3 h4 l1 l2 e1 e2 => served_done hl ?_,
    fun b w m r hm hr => ⟨fun ha hu hend => served_done hl ?_, fun hbad => refused_of hl ?_⟩⟩
  · simp only [magazinePresent, hm, hc, hsoft, Bool.not_true, Bool.false_eq_true, if_false]
  · simp only [magazinePresent, hm, hc, hhard, Bool.not_false, if_true]
  · simp only [magazineConfig, h1, h2, h3, h4, within_of l1 l2, within_of e1 e2, Bool.and_self, Bool.not_true,
      Bool.false_eq_true, if_false]
    rfl
  · rw [rollSet_eq s hm hr, if_neg (by simp only [ha, hu, hend, or_self, not_false_eq_true])]
  · rw [rollSet_eq s hm hr, if_pos hbad]

/-- Settles O37: a change of mode defers its effect while the line flushes or changes over. -/
theorem patternAndTestRequests : Obligations.PatternAndTestRequests := by
  unfold Obligations.PatternAndTestRequests
  refine ⟨fun h b on s hp => ⟨fun hb => ⟨fun hbusy => refused_of (mem_linePort hp) ?_, fun hl hw => ⟨fun hsame =>
      served_done (mem_linePort hp) ?_, fun hon hoff => served_done (mem_linePort hp) ?_, fun hoff hon =>
      served_done (mem_linePort hp) ?_⟩⟩, fun m n hm h1 h2 => ⟨fun hpat => refused_of (mem_linePort hp) ?_,
      fun hpat htest => refused_of (mem_linePort hp) ?_, fun hpat htest => served_done (mem_linePort hp) ?_⟩⟩,
    fun s hw => ⟨fun hwork hdef => ?_, fun hdef hcal => ?_, fun hl hweb hf => ?_⟩⟩
  · have hno : (s.ctl.line == .exposing || s.writing) = true := by simpa using hbusy
    simp only [patternSet, hb, hno, if_true]
  · simp only [patternSet_outside s hb hl hw, hsame, beq_self_eq_true, if_true]
  · rw [patternSet_outside s hb hl hw, hon, hoff]
    simp only [← atWork_iff]
    rfl
  · rw [patternSet_outside s hb hl hw, hoff, hon]
    simp only [← atWork_iff]
    rfl
  · rw [testPrint_inRange s hm h1 h2, hpat]
    rfl
  · rw [testPrint_inRange s hm h1 h2, hpat, Option.isSome_iff_ne_none.2 htest]
    rfl
  · rw [testPrint_inRange s hm h1 h2, hpat, htest]
    rfl
  · have hcal : ¬(s.writing || s.ctl.line == .calibrating) = true := by
      rcases hwork with e | e <;> simp [hw, e]
    have hwait : (s.atWork && s.sched.deferred) = true := by rw [(atWork_iff s).2 hwork, hdef]; rfl
    simp only [attempt, if_neg hcal, hwait, if_true]
    rfl
  · have hcal' : ¬(s.writing || s.ctl.line == .calibrating) = true := by simp [hw, hcal]
    have hfull : ¬(s.atWork && s.sched.deferred) = true := by
      rw [Bool.and_eq_true, atWork_iff]
      rcases hdef with e | ⟨e1, e2⟩
      · simp [e]
      · simp [e1, e2]
    simp only [attempt, if_neg hcal', if_neg hfull]
  · have hend : (s.ctl.line == .flushing && s.cutter.web.isEmpty) = true := by simp [hl, hweb]
    simp only [endFlush, hend, if_true]
    cases he : s.transport.encoder with
    | false =>
      have hstop : ¬ s.clearRequest.dueScan.dueAttempt.transport.encoder = true := by
        rw [show s.clearRequest.dueScan.dueAttempt.transport = s.transport from rfl, he]
        simp
      rw [if_neg hstop, setLine_due, setLine_ctl]
      exact ⟨rfl, rfl⟩
    | true =>
      have hnew : ¬ s.clearRequest.dueScan.dueAttempt.ctl.faults.has .encoder = true := by
        rw [show s.clearRequest.dueScan.dueAttempt.ctl.faults = s.ctl.faults from rfl, hf]
        simp [FaultSet.none, FaultSet.has]
      rw [if_pos (show s.clearRequest.dueScan.dueAttempt.transport.encoder = true from he)]
      simp only [addCause, if_neg hnew, if_true]
      exact (causeOnLine_flushing (by exact hl)).symm

end Sys2Proof.Proofs
end


section
/-! Running, standby and wake (O33), FAULT_CLEAR (O34), calibration (O35, O36). -/

set_option Elab.async false

namespace Sys2Proof.Machine

theorem FaultSet.minus_cleared (f named gone : FaultSet) : f.minus (f.cleared named gone) =
    { paperBreak := f.paperBreak && !(f.paperBreak && named.paperBreak && gone.paperBreak)
      jam := f.jam, encoder := f.encoder
      cutter := f.cutter && !(f.cutter && named.cutter && gone.cutter)
      head := f.head && !(f.head && named.head && gone.head)
      rejectFull := f.rejectFull && !(f.rejectFull && named.rejectFull && gone.rejectFull) } := by
  simp [FaultSet.minus, FaultSet.cleared]

theorem mapFrom_getElem? {α β : Type} (f : Nat → α → β) : ∀ (l : List α) (i x : Nat),
    (mapFrom f i l)[x]? = l[x]?.map (f (i + x))
  | [], i, x => by simp [mapFrom]
  | a :: l, i, 0 => by simp [mapFrom]
  | a :: l, i, x + 1 => by
    simp only [mapFrom, List.getElem?_cons_succ, mapFrom_getElem? f l (i + 1) x]
    rw [show i + 1 + x = i + (x + 1) by omega]

theorem measured_iff (k : CalKind) (ptr x : Nat) : measured k ptr x = true ↔ k = .long ∨ x % 8 = ptr := by
  cases k <;> simp [measured]

theorem commitTrims_at (r : CalRun) (ptr : Nat) (m : Readings) (ch : Channel) {ts : List Nat} {x : Nat}
    (h : x < ts.length) : (commitTrims r ptr m ch ts)[x]? =
      if r.kind = .long ∨ x % 8 = ptr then some (newTrim (rgbGet r.ref ch) (readingOf m ch x)) else ts[x]? := by
  simp only [commitTrims, mapFrom_getElem?, Nat.zero_add, List.getElem?_eq_getElem h, Option.map_some,
    measured_iff]
  split <;> rfl

theorem commitDead_at (r : CalRun) (ptr : Nat) (m : Readings) (ch : Channel) {ds : List Bool} {x : Nat}
    (h : x < ds.length) : (commitDead r ptr m ch ds)[x]? =
      if r.kind = .long ∨ x % 8 = ptr then some (readingOf m ch x == 0) else ds[x]? := by
  simp only [commitDead, mapFrom_getElem?, Nat.zero_add, List.getElem?_eq_getElem h, Option.map_some,
    measured_iff]
  split <;> rfl

theorem CalUnit.commit_trim (c : CalUnit) (r : CalRun) (m : Readings) (ch : Channel) :
    rgbGet (c.commit r m).trim ch = commitTrims r c.shortPtr m ch (rgbGet c.trim ch) := by
  cases ch <;> rfl

theorem CalUnit.commit_dead (c : CalUnit) (r : CalRun) (m : Readings) (ch : Channel) :
    rgbGet (c.commit r m).dead ch = commitDead r c.shortPtr m ch (rgbGet c.dead ch) := by
  cases ch <;> rfl

theorem headFit_eq (dead : Rgb (List Bool)) : headFit dead =
    decide (∀ ch ∈ [Channel.r, .g, .b], State.deadCount (rgbGet dead ch) ≤ 8) := by
  simp [headFit, rgbGet, Bool.and_assoc]

/-- An answer that brings `u` to rest, with a status and a payload of its own. -/
theorem served_settled {s u : State} {h : Hdr} {code : Nat} {roles : List Port} {a : Answer} {st : Status}
    {ps : List Byte} (hp : h.port ∈ roles) (e : a = ⟨State.settle s u, st, ps⟩) :
    Served (serve s h code roles a) s u h code st ps := by
  rw [serve_open hp, e]
  exact State.served_of rfl

namespace State

/-! ### The line and its fault set -/

theorem noFault_iff (s : State) : s.noFault = true ↔ s.ctl.faults = FaultSet.none := by simp [noFault]

theorem faultsGone_ctl (s : State) : s.faultsGone.ctl = { s.ctl with
    line := if s.ctl.line = .fault then (if s.writing then .exposing else .stopped) else s.ctl.line } := by
  simp only [faultsGone, beq_iff_eq]
  by_cases hl : s.ctl.line = .fault
  · simp only [if_pos hl]
    exact setLine_ctl s _
  · simp only [if_neg hl]
    rfl

theorem setFaults_ctl (s : State) (f : FaultSet) : (s.setFaults f).ctl = { s.ctl with
    faults := f
    line := if s.ctl.faults ≠ FaultSet.none ∧ f = FaultSet.none ∧ s.ctl.line = .fault then
      (if s.writing then .exposing else .stopped) else s.ctl.line } := by
  have hgone : (!s.noFault && ({ s with ctl.faults := f } : State).noFault) = true ↔
      s.ctl.faults ≠ FaultSet.none ∧ f = FaultSet.none := by
    rw [Bool.and_eq_true, Bool.not_eq_true', Bool.eq_false_iff, ne_eq, noFault_iff, noFault_iff]
  simp only [setFaults]
  by_cases hg : s.ctl.faults ≠ FaultSet.none ∧ f = FaultSet.none
  · rw [if_pos (hgone.2 hg), faultsGone_ctl]
    simp only [hg.1, hg.2, ne_eq, not_false_eq_true, true_and]
    rfl
  · rw [if_neg fun k => hg (hgone.1 k), if_neg fun k => hg ⟨k.1, k.2.1⟩]

theorem setFaults_kept {s : State} {f : FaultSet} (h : f ≠ FaultSet.none) :
    s.setFaults f = { s with ctl.faults := f } := by
  have hno : ({ s with ctl.faults := f } : State).noFault = false := by
    rw [Bool.eq_false_iff, ne_eq, noFault_iff]
    exact h
  simp only [setFaults, hno, Bool.and_false, Bool.false_eq_true, if_false]

/-- A line that takes a state with time, timers or a calibration of its own. -/
theorem setLine_now (s : State) (l : LineState) : (s.setLine l).now = s.now := by rw [setLine_frame]
theorem setLine_cal (s : State) (l : LineState) : (s.setLine l).cal = s.cal := by rw [setLine_frame]

theorem wake_standby {s : State} (h : s.ctl.line = .standby) :
    s.wake = ({ s with ctl.wakeTimer := some s.ms } : State).setLine .waking := by
  simp only [wake, h, beq_self_eq_true, if_true]

theorem wake_facts {s : State} (h : s.ctl.line = .standby) :
    s.wake.ctl = { s.ctl with line := .waking, wakeTimer := some (s.now / 1000) } ∧
      s.wake.lasting = ({ s with ctl := s.wake.ctl } : State).lasting := by
  have hctl : s.wake.ctl = { s.ctl with line := .waking, wakeTimer := some (s.now / 1000) } := by
    rw [wake_standby h, setLine_ctl]
    rfl
  refine ⟨hctl, ?_⟩
  rw [hctl, wake_standby h, setLine_lasting]
  rfl

theorem enterStandby_facts (s : State) :
    s.enterStandby.now = s.now ∧ s.enterStandby.ctl = { s.ctl with line := .standby } ∧
      s.enterStandby.cal = { s.cal with calibrated := false } ∧
      s.enterStandby.lasting =
        ({ s with ctl := s.enterStandby.ctl, cal := s.enterStandby.cal } : State).lasting := by
  have hctl : s.enterStandby.ctl = { s.ctl with line := .standby } := setLine_ctl _ _
  have hcal : s.enterStandby.cal = { s.cal with calibrated := false } := setLine_cal _ _
  refine ⟨setLine_now _ _, hctl, hcal, ?_⟩
  rw [hctl, hcal, enterStandby, setLine_lasting]
  rfl

theorem startCalibration_facts (s : State) (k : CalKind) :
    (s.startCalibration k).now = s.now ∧
      (s.startCalibration k).ctl = { s.ctl with line := .calibrating } ∧
      (s.startCalibration k).cal = { s.cal with run := some ⟨k, s.now / 1000, s.cal.ref⟩, pending := none } ∧
      (s.startCalibration k).lasting =
        ({ s with ctl := (s.startCalibration k).ctl, cal := (s.startCalibration k).cal } : State).lasting := by
  have hctl : (s.startCalibration k).ctl = { s.ctl with line := .calibrating } := setLine_ctl _ _
  have hcal : (s.startCalibration k).cal =
      { s.cal with run := some ⟨k, s.now / 1000, s.cal.ref⟩, pending := none } := setLine_cal _ _
  refine ⟨setLine_now _ _, hctl, hcal, ?_⟩
  rw [hctl, hcal, startCalibration, setLine_lasting]
  rfl

theorem startsProbe_iff (s : State) (n : FaultSet) : s.startsProbe n = true ↔
    n.encoder = true ∧ s.ctl.faults.encoder = true ∧ s.ctl.line = .fault ∧ s.writing = false ∧
      s.transport.probe = none := by
  simp [startsProbe, and_assoc]

/-- A clear probe started in FAULT runs the motor. -/
theorem startProbe_facts {s : State} (h : s.ctl.line = .fault) :
    s.startProbe.ctl = { s.ctl with lastProbe := .running } ∧
      s.startProbe.transport.probe = some ⟨s.now / 1000, 0⟩ ∧ s.startProbe.transport.motor = true ∧
      s.startProbe.lasting =
        ({ s with transport.probe := some ⟨s.now / 1000, 0⟩, ctl.lastProbe := .running } : State).lasting := by
  have hmotor := syncMotor_motor
    { s with transport.probe := some ⟨s.ms, 0⟩, ctl.lastProbe := .running }
  obtain ⟨_, _, _, _, _, _, hframe⟩ := syncMotor_frame
    { s with transport.probe := some ⟨s.ms, 0⟩, ctl.lastProbe := .running }
  refine ⟨?_, ?_, hmotor.trans ?_, syncMotor_lasting _⟩
  · rw [startProbe, hframe]
  · rw [startProbe, hframe]
    rfl
  · simp only [motorWanted, h, Option.isSome_some, Bool.or_true]

theorem faultClear_eq (s : State) {b : Byte} (h : faultsOf b ≠ FaultSet.none) : s.faultClear b =
    ⟨settle s (if s.startsProbe (faultsOf b) then
        (s.setFaults (s.ctl.faults.minus (s.ctl.faults.cleared (faultsOf b) s.conditionsGone))).startProbe
      else s.setFaults (s.ctl.faults.minus (s.ctl.faults.cleared (faultsOf b) s.conditionsGone))),
      if s.startsProbe (faultsOf b) then .accepted else .ok,
      [byte (faultsCode (s.ctl.faults.cleared (faultsOf b) s.conditionsGone)),
        byte (faultsCode (settle s (if s.startsProbe (faultsOf b) then
          (s.setFaults (s.ctl.faults.minus (s.ctl.faults.cleared (faultsOf b) s.conditionsGone))).startProbe
        else s.setFaults
          (s.ctl.faults.minus (s.ctl.faults.cleared (faultsOf b) s.conditionsGone)))).ctl.faults)]⟩ := by
  simp only [faultClear, beq_iff_eq, if_neg h]

/-! ### Calibration -/

theorem headCalibrate_open (s : State) {kb pb : Byte} {k : CalKind} {pre : Bool} (hk : calKindOf kb = some k)
    (hp : yesNo pb = some pre) (h : s.cal.pending ≠ none ∨ s.ctl.line ≠ .calibrating ∧
      s.ctl.line ≠ .standby ∧ s.ctl.line ≠ .waking ∧ (s.ctl.line = .fault → s.transport.probe = none)) :
    s.headCalibrate kb pb = accepted s (s.askCalibration k pre) := by
  simp only [headCalibrate, hk, hp]
  cases hpend : s.cal.pending with
  | some x => rfl
  | none =>
    obtain ⟨h1, h2, h3, h4⟩ := h.resolve_left fun e => e hpend
    simp only [Option.isSome_none, Bool.false_eq_true, if_false]
    cases hl : s.ctl.line with
    | calibrating => exact absurd hl h1
    | standby => exact absurd hl h2
    | waking => exact absurd hl h3
    | fault => rw [h4 hl]; rfl
    | _ => rfl

theorem mergePending_eq (s : State) (k : CalKind) : s.mergePending k =
    { s with cal.pending := some (if s.cal.pending = some .long then .long else k) } := by
  simp only [mergePending, beq_iff_eq]

theorem frame?_of_writing {s : State} (h : s.writing = true) : ∃ c, s.frame? = some c := by
  simp only [writing, frame?] at h ⊢
  cases hw : s.engine.work <;> rw [hw] at h
  · cases h
  · exact ⟨_, rfl⟩
  · cases h

/-- An abort ends the frame and spoils its print. -/
theorem abortFrame_frame {s : State} (h : s.writing = true) : OrderFrame s.endFrame s.abortFrame := by
  obtain ⟨c, hc⟩ := frame?_of_writing h
  simp only [abortFrame, hc]
  exact spoil?_frame _ _

theorem leaveWork_lasting (s : State) : s.leaveWork.lasting = s.lasting := by
  rw [leaveWork, dueAttempt_lasting, dueScan_lasting, setLine_lasting]

/-- What the judgement of a calibration reports. -/
theorem calReport_facts (s : State) : ∃ u : State,
    (if s.cal.calibrated then s.raise .calDone else (s.raise .calFailed).addCause .head) = u ∧
      u.cal = s.cal ∧ u.now = s.now ∧ u.sched = s.sched ∧
      (∀ p, (u.port p).flags = (s.port p).flags ||| if s.cal.calibrated then 64 else 128) ∧
      u.ctl.faults = (if s.cal.calibrated then s.ctl.faults else { s.ctl.faults with head := true }) ∧
      u.ctl = { s.ctl with line := u.ctl.line, faults := u.ctl.faults } ∧
      u.lasting = ({ s with ctl.faults := u.ctl.faults } : State).lasting := by
  refine ⟨_, rfl, ?_⟩
  cases hc : s.cal.calibrated with
  | true =>
    simp only [if_true]
    exact ⟨rfl, rfl, rfl, fun p => raise_flags s .calDone p, rfl, rfl, rfl⟩
  | false =>
    simp only [Bool.false_eq_true, if_false]
    have hframe := addCause_facts (s.raise .calFailed) .head
    have hfaults : ((s.raise .calFailed).addCause .head).ctl.faults = s.ctl.faults.put true .head := by rw [hframe]; rfl
    refine ⟨?_, ?_, ?_, fun p => ?_, hfaults, ?_, ?_⟩
    · rw [hframe]; rfl
    · rw [hframe]; rfl
    · rw [hframe]; rfl
    · rw [port_flags_congr (show _ = (s.raise .calFailed).ports by rw [hframe])]
      exact raise_flags s .calFailed p
    · rw [hfaults, hframe]; rfl
    · rw [hfaults]
      simp only [addCause]
      split
      · next hh =>
        rw [FaultSet.put_of_has s.ctl.faults .head hh]
        rfl
      · exact causeOnLine_lasting _

end State

end Sys2Proof.Machine

namespace Sys2Proof.Proofs

open Sys2Proof.Machine Sys2Proof.Machine.State

/-- Settles O33: each request and timer end is one change of the line state. -/
theorem runPauseStandbyAndWakeMoveTheLine : Obligations.RunPauseStandbyAndWakeMoveTheLine := by
  unfold Obligations.RunPauseStandbyAndWakeMoveTheLine
  refine ⟨fun h s hp => ⟨fun hcal => served_done (mem_linePort hp) ?_, fun hcal => refused_of (mem_linePort hp) ?_,
      fun hw => served_done (mem_linePort hp) ?_, fun hw => served_done (mem_linePort hp) ?_⟩,
    fun h s hp => ⟨fun hst => ?_, fun hst => served_done (mem_linePort hp) ?_, fun ht => happens_event ?_,
      fun t e ht he => ?_, fun ht => happens_event ?_, fun t e ht he => ?_⟩⟩
  · simp only [lineRun, hcal, Bool.not_true, Bool.false_eq_true, if_false]
    rfl
  · simp only [lineRun, hcal, Bool.not_false, if_true]
  · simp only [linePause, hw, if_true]
  · simp only [linePause, hw, Bool.false_eq_true, if_false]
  · obtain ⟨hctl, hlasting⟩ := wake_facts hst
    refine ⟨s.wake, served_done (mem_linePort hp) ?_, hctl, hlasting⟩
    simp only [lineWake, hst, beq_self_eq_true, if_true]
  · simp only [lineWake, beq_iff_eq, if_neg hst]
    rfl
  · simp only [standbyExpires, ht]
  · obtain ⟨hnow, hctl, hcal, hlasting⟩ := enterStandby_facts e
    refine ⟨e.enterStandby, happens_event ?_, hnow.trans ?_, hctl, hcal, hlasting⟩
    · simp only [standbyExpires, ht, he]
    · rw [he, passTo_now]
  · simp only [wakeExpires, ht]
  · have hpassed : e.now = max s.now ((t + 2000) * 1000) := by rw [he, passTo_now]
    obtain ⟨hnow, hctl, hcal, hlasting⟩ := startCalibration_facts { e with ctl.wakeTimer := none } .long
    refine ⟨_, happens_event ?_, hnow.trans hpassed, hctl, by rw [hcal, hnow], hlasting.trans ?_⟩
    · simp only [wakeExpires, ht, he]
    · rw [hctl, hcal]

/-- Settles O34: the causes left are those not cleared; ENCODER among them keeps the line in FAULT for a probe. -/
theorem faultClearRemovesGoneCauses : Obligations.FaultClearRemovesGoneCauses := by
  unfold Obligations.FaultClearRemovesGoneCauses
  intro h b s f n r left hp hf hn hr hleft
  have hcleared : s.ctl.faults.cleared (faultsOf b) s.conditionsGone = r := by
    rw [hr, hf, hn]
    rfl
  have hminus : s.ctl.faults.minus r = left := by
    rw [← hcleared, FaultSet.minus_cleared, hleft, hr, hf, hn]
    rfl
  refine ⟨fun hnone => refused_of (mem_linePort hp) ?_, fun hsome hno => ?_, fun hne hfe hl hw hprobe => ?_⟩
  · simp only [faultClear, ← hn, hnone, beq_self_eq_true, if_true]
  · have hstart : s.startsProbe (faultsOf b) = false := by
      rw [Bool.eq_false_iff, ne_eq, startsProbe_iff, ← hn, ← hf]
      exact hno
    have hanswer := faultClear_eq s (hn ▸ hsome)
    simp only [hstart, Bool.false_eq_true, if_false, hcleared, hminus] at hanswer
    refine ⟨s.setFaults left, served_settled (mem_linePort hp) hanswer, ?_, ?_⟩
    · rw [setFaults_ctl, hf]
    · rw [setFaults_ctl, (setFaults_tr s left).2.2.2]
      rfl
  · have hsome : n ≠ FaultSet.none := fun e => by rw [e] at hne; cases hne
    have hstart : s.startsProbe (faultsOf b) = true := by
      rw [startsProbe_iff, ← hn, ← hf]
      exact ⟨hne, hfe, hl, hw, hprobe⟩
    have hstays : left ≠ FaultSet.none := fun e => by
      have : left.encoder = true := by rw [hleft]; exact hfe
      rw [e] at this
      cases this
    have hanswer := faultClear_eq s (hn ▸ hsome)
    simp only [hstart, if_true, hcleared, hminus, setFaults_kept hstays] at hanswer
    obtain ⟨hctl, hrun, hmotor, hlasting⟩ := startProbe_facts (s := { s with ctl.faults := left }) hl
    refine ⟨_, served_settled (mem_linePort hp) hanswer, hctl, hrun, hmotor, ?_⟩
    rw [hctl, hrun, hlasting]

/-- Settles O35: a calibration asked for is merged with the pending one; preempting it aborts the frame. -/
theorem headCalibrateMakesACalibrationPending : Obligations.HeadCalibrateMakesACalibrationPending := by
  unfold Obligations.HeadCalibrateMakesACalibrationPending
  intro h kb pb k pre s hp hk hpre
  refine ⟨fun hopen => ⟨fun hno => served_accepted (mem_linePort hp) ?_, fun hyes hw => ?_⟩,
    fun hnone hl => refused_of (mem_linePort hp) ?_, fun hnone hl hprobe => refused_of (mem_linePort hp) ?_,
    fun hnone hl => refused_of (mem_linePort hp) ?_⟩
  · have hkeep : ¬ (pre && (s.mergePending k).writing) = true := by
      rw [show (s.mergePending k).writing = s.writing from rfl]
      rcases hno with e | e <;> simp [e]
    rw [headCalibrate_open s hk hpre hopen, askCalibration, if_neg hkeep, mergePending_eq]
  · have hw' : (s.mergePending k).writing = true := hw
    have hask : s.askCalibration k pre = (s.mergePending k).abortFrame.wasteLast := by
      simp only [askCalibration, hyes, hw', Bool.and_self, if_true]
    have hframe := abortFrame_frame hw'
    refine ⟨_, served_accepted (mem_linePort hp) (headCalibrate_open s hk hpre hopen), ?_, ?_, ?_, ?_,
      fun c hc => ?_, ?_⟩ <;> rw [hask]
    · have hcal : (s.mergePending k).abortFrame.cal = (s.mergePending k).cal := by rw [hframe]; rfl
      exact hcal.trans (congrArg State.cal (mergePending_eq s k))
    · exact congrArg (·.engine.work) hframe
    · exact congrArg (·.engine.strobe) hframe
    · exact congrArg (·.due.frameEnd) hframe
    · exact (abortFrame_book (s.mergePending k) hc).trans (spoil?_book_congr (s := s) (t := s.mergePending k) rfl _)
    · show ({ (s.mergePending k).abortFrame.cutter with web := _ } : Cutter) = _
      rw [congrArg State.cutter hframe]
      rfl
  · simp only [headCalibrate, hk, hpre, hnone, hl, Option.isSome_none, Bool.false_eq_true, if_false]
  · simp only [headCalibrate, hk, hpre, hnone, hl, Option.isSome_none, Bool.false_eq_true, if_false,
      Option.isSome_iff_ne_none.2 hprobe, if_true]
  · rcases hl with hl | hl <;>
      simp only [headCalibrate, hk, hpre, hnone, hl, Option.isSome_none, Bool.false_eq_true, if_false]

/-- Settles O36: the measured elements take their new trims, the report sets a flag and perhaps HEAD. -/
theorem calibrationCommitsTheTrims : Obligations.CalibrationCommitsTheTrims := by
  unfold Obligations.CalibrationCommitsTheTrims
  refine fun m s => ⟨fun hnone => happens_event ?_, fun r e hr he => ?_⟩
  · simp only [calibrationEnds, hnone]
  · have hlen : r.start + calDuration r.kind = r.start + if r.kind = .long then 400 else 60 := by
      cases r.kind <;> rfl
    have hframe : PaperFrame { s with now := max s.now ((r.start + calDuration r.kind) * 1000) } e := by
      rw [he, ← hlen]
      exact passTo_frame s _
    have hnow : e.now = max s.now ((r.start + if r.kind = .long then 400 else 60) * 1000) := by
      rw [he]
      exact passTo_now s _
    have hcal : e.cal = s.cal := by rw [hframe]
    have hports : e.ports = s.ports := by rw [hframe]
    obtain ⟨v, hv, vcal, vnow, vsched, vflags, vfaults, vctl, vlasting⟩ :=
      calReport_facts { e with cal := e.cal.commit r m, sched.framesSinceCal := 0 }
    have hends : s.calibrationEnds m = v.leaveWork := by
      rw [← hlen] at he
      simp only [calibrationEnds, hr, ← he, ← hv]
    have hleave := leaveWork_frame v
    have ucal : v.leaveWork.cal = s.cal.commit r m := by rw [hleave, ← hcal]; exact vcal
    have uctl : v.leaveWork.ctl = { e.ctl with
        faults := v.ctl.faults, line := if v.noFault then .stopped else .fault } := by rw [hleave, vctl]
    refine ⟨v.leaveWork, happens_event hends, ?_, hcal, fun ch x hx => ?_, fun ch x hx => ?_, ?_, ?_, ?_, ?_, ?_, ?_,
      fun p => ?_, ?_⟩
    · rw [hleave, ← hnow]
      exact vnow
    · rw [ucal, CalUnit.commit_trim, commitTrims_at _ _ _ _ hx]
      rfl
    · rw [ucal, CalUnit.commit_dead, commitDead_at _ _ _ _ hx]
    · rw [ucal]
      simp only [CalUnit.commit, beq_iff_eq]
    · rw [ucal]
      exact headFit_eq _
    · rw [ucal]
      rfl
    · rw [hleave]
      exact congrArg Scheduler.framesSinceCal vsched
    · rw [ucal, uctl, ← hcal]
      exact vfaults
    · rw [uctl]
      simp only [noFault_iff]
    · rw [ucal, port_flags_congr (show v.leaveWork.ports = v.ports by rw [hleave]), vflags, ← hcal,
        ← port_flags_congr hports]
      rfl
    · rw [leaveWork_lasting, vlasting, ucal, uctl, ← hcal]
      rfl

end Sys2Proof.Proofs
end


section
/-! The cutter and the blade (O48 to O50), the magazine inputs (O46), emptied bins and the processor's timers
(O51, O55). -/

set_option Elab.async false

namespace Sys2Proof.Machine

/-! ### Marks -/

theorem Cutter.expectedRecord_at {c : Cutter} {pre post : List WebRecord} {x : WebRecord}
    (hweb : c.web = pre ++ x :: post) (hpre : ∀ y ∈ pre, y.mark ≠ .unseen) (hx : x.mark = .unseen) :
    c.expectedRecord = some x := by
  have hnone : pre.find? (fun y => y.mark == .unseen) = none :=
    List.find?_eq_none.2 fun y hy => by simpa using hpre y hy
  simp only [expectedRecord, hweb, List.find?_append, hnone, Option.none_or]
  exact List.find?_cons_of_pos (by simp [hx])

theorem Cutter.judge_taken {c : Cutter} {x : WebRecord} {edge : Nat} (hx : c.expectedRecord = some x)
    (hb : c.blanked edge = false) (h1 : edge ≤ x.expected + c.markTol) (h2 : x.expected ≤ edge + c.markTol) :
    c.judge edge = { c with
      web := settleMark (fun y => { y with mark := .taken edge, cut := some (edge + c.cutOffset) }) id c.web
      lastMark := some ⟨edge, (edge : Int) - x.expected⟩ } := by
  simp only [judge, hb, Bool.false_eq_true, if_false, hx, if_pos (And.intro h2 h1)]

theorem Cutter.judge_ignored {c : Cutter} {x : WebRecord} {edge : Nat} (hx : c.expectedRecord = some x)
    (h : c.blanked edge = true ∨ x.expected + c.markTol < edge ∨ edge + c.markTol < x.expected) :
    c.judge edge = c := by
  simp only [judge, hx]
  by_cases hb : c.blanked edge = true
  · rw [if_pos hb]
  · have hout : ¬(x.expected ≤ edge + c.markTol ∧ edge ≤ x.expected + c.markTol) := by
      rcases h with e | e
      · exact absurd e hb
      · omega
    rw [if_neg hb, if_neg hout]

namespace State

/-! ### The cut -/

/-- The state once the blade has swung: what `fireCut` writes before the piece is completed (R135). -/
def swung (s : State) : State :=
  { s with
    cutter.blade := .down s.ms s.cutter.cutDwell
    cutter.homeInput := false
    cutter.lastCut := some s.transport.position }

theorem fireCut_units (s : State) :
    s.fireCut.cutter = { s.swung.completePiece.cutter with web := openAtCut s.swung.completePiece.cutter.web } ∧
      s.fireCut.monitor = s.swung.completePiece.monitor := by
  simp only [fireCut, swung]
  split <;> exact ⟨rfl, rfl⟩

/-- A PRINT, INDEX or TEST piece goes to the processor as a sheet (R137, R139). -/
theorem completePiece_sheet {s : State} {x : WebRecord} {k : FrameKind} (hx : s.cutter.openPiece = some x)
    (hk : x.kind.sheet = some k) :
    s.completePiece.cutter = { s.cutter with web := s.cutter.web.drop 1, diverter := .processor } ∧
      s.completePiece.monitor.sheets = s.monitor.sheets ++ [⟨k, x.order, s.now / 1000,
        s.now / 1000 + s.monitor.transit * 1000, x.area, x.inspect⟩] := by
  simp only [completePiece, hx, hk]
  refine ⟨?_, ?_⟩
  · rw [handOff_tr]
    rfl
  · rw [handOff, startPump_monitor_sheets]
    rfl

/-- A WASTE piece or a leader goes to the chute (R137, R138). -/
theorem completePiece_chute {s : State} (h : ∀ x, s.cutter.openPiece = some x → x.kind.sheet = none) :
    s.completePiece.cutter = { s.cutter with web := s.cutter.behind, diverter := .chute } ∧
      s.completePiece.monitor = s.monitor := by
  cases hx : s.cutter.openPiece with
  | none =>
    simp only [completePiece, Cutter.behind, hx]
    exact ⟨rfl, trivial⟩
  | some x =>
    simp only [completePiece, Cutter.behind, hx, h x hx]
    exact ⟨rfl, rfl⟩

theorem tryCut_off {s : State} (h : s.cutter.cutDue s.transport.position = false ∨ s.cutter.blade ≠ .isIn) :
    s.tryCut = s := by
  have hno : ¬ (s.cutter.cutDue s.transport.position && s.cutter.blade == .isIn) = true := by
    rcases h with e | e <;> simp [e]
  simp only [tryCut, if_neg hno]

theorem tryCut_fires {s : State} (hdue : s.cutter.cutDue s.transport.position = true)
    (hin : s.cutter.blade = .isIn) (hhome : s.cutter.homeInput = true) : s.tryCut = s.fireCut := by
  simp only [tryCut, hdue, hin, hhome, beq_self_eq_true, Bool.and_self, if_true]

theorem tryCut_stuck {s : State} (hdue : s.cutter.cutDue s.transport.position = true)
    (hin : s.cutter.blade = .isIn) (hhome : s.cutter.homeInput = false) :
    s.tryCut = ({ s with cutter.blade := .stuck } : State).addCause .cutter := by
  simp only [tryCut, hdue, hin, hhome, beq_self_eq_true, Bool.and_self, Bool.false_eq_true, if_true, if_false]

/-! ### Causes, magazines, the pump -/

theorem addCause_faults (s : State) (c : Cause) : (s.addCause c).ctl.faults = s.ctl.faults.put true c := by
  rw [addCause_facts]

theorem addCause_cutter (s : State) (c : Cause) : (s.addCause c).cutter = s.cutter := by rw [addCause_facts]
theorem addCause_monitor (s : State) (c : Cause) : (s.addCause c).monitor = s.monitor := by rw [addCause_facts]
theorem addCause_now (s : State) (c : Cause) : (s.addCause c).now = s.now := by rw [addCause_facts]

theorem modMag_eq (s : State) (f : Mag → Mag) (m : MagSlot) : s.modMag f m = s.modMag (fun _ => f (s.mag m)) m := by
  cases m <;> rfl

theorem mag_congr {s t : State} (h : t.transport = s.transport) (m : MagSlot) : t.mag m = s.mag m := by
  cases m <;> simp only [mag, h]

/-- A change of a slot's record writes that record only. -/
theorem modMag_rest (s : State) (f : Mag → Mag) (m : MagSlot) : (s.modMag f m).engine = s.engine ∧
    (s.modMag f m).cutter = s.cutter ∧ (s.modMag f m).book = s.book ∧ (s.modMag f m).ctl = s.ctl ∧
    (s.modMag f m).transport.threaded = s.transport.threaded ∧
    (s.modMag f m).transport.endLead = s.transport.endLead ∧
    (s.modMag f m).transport.changeover = s.transport.changeover := by
  cases m <;> exact ⟨rfl, rfl, rfl, rfl, rfl, rfl, rfl⟩

theorem frame?_iff (s : State) (c : FrameContext) : s.frame? = some c ↔ s.engine.work = .frame c := by
  simp only [frame?]
  cases s.engine.work <;> simp

theorem frame?_none_of {s : State} (h : s.writing = false) : s.frame? = none := by
  cases hc : s.frame? with
  | none => rfl
  | some c =>
    simp only [writing, (frame?_iff s c).1 hc] at h
    cases h

/-- A paper end that the frame outlasts, or that comes while none is written, leaves the engine alone (R123). -/
theorem takePaperEnd_spares {s : State} (m : MagSlot)
    (h : ∀ c, s.frame? = some c → countsToWrite c ≤ s.transport.endLead * 40) : s.takePaperEnd m = s.modMag
      (fun g => { g with remaining := .mm s.transport.endLead, endSeen := true, carry := 0 }) m := by
  obtain ⟨hengine, _, _, _, _, hlead, _⟩ := modMag_rest s
    (fun g => { g with remaining := .mm s.transport.endLead, endSeen := true, carry := 0 }) m
  simp only [takePaperEnd, frame?, hengine, hlead]
  cases hw : s.engine.work with
  | frame c => simp only [if_neg (show ¬ s.transport.endLead * 40 < countsToWrite c from
      Nat.not_lt.2 (h c ((frame?_iff s c).2 hw)))]
  | _ => rfl

/-- A frame that needs more than END_LEAD is aborted, its record WASTE (R92, R123). -/
theorem takePaperEnd_cuts {s : State} (m : MagSlot) {c : FrameContext} (hc : s.frame? = some c)
    (h : s.transport.endLead * 40 < countsToWrite c) : s.takePaperEnd m = (s.modMag
      (fun g => { g with remaining := .mm s.transport.endLead, endSeen := true, carry := 0 })
      m).abortFrame.wasteLast := by
  obtain ⟨hengine, _, _, _, _, hlead, _⟩ := modMag_rest s
    (fun g => { g with remaining := .mm s.transport.endLead, endSeen := true, carry := 0 }) m
  simp only [takePaperEnd, frame?, hengine, hlead, (frame?_iff s c).1 hc, if_pos h]

/-- The frame's abortion: the engine idle, the print spoiled, the last record WASTE. -/
theorem abortWaste_facts {s : State} {c : FrameContext} (hc : s.frame? = some c) :
    s.abortFrame.wasteLast.engine.work = .idle ∧
      s.abortFrame.wasteLast.book = (s.spoil? (c.target.map fun t => ⟨t.number, t.item⟩)).book ∧
      s.abortFrame.wasteLast.cutter = { s.cutter with
        web := modAt (fun x => { x with kind := .waste, order := none }) s.cutter.web
          (s.cutter.web.length - 1) } := by
  have hw : s.writing = true := by simp only [writing, (frame?_iff s c).1 hc]
  have hcutter : s.abortFrame.cutter = s.cutter := by rw [abortFrame_frame hw]; rfl
  refine ⟨abortFrame_work s hw, abortFrame_book s hc, ?_⟩
  simp only [wasteLast, hcutter]

theorem startPump_idle {s : State} (h : s.monitor.pump = .idle) : s.startPump.monitor = { s.monitor with
    pump := if 0 < s.monitor.pulses ∧ s.monitor.stop = none then .pulse s.ms s.monitor.replPulse else .idle } := by
  simp only [startPump, h, beq_self_eq_true, Bool.true_and, Bool.and_eq_true, decide_eq_true_eq,
    Option.isNone_iff_eq_none]
  split
  · rfl
  · rw [← h]

end State

end Sys2Proof.Machine

namespace Sys2Proof.Proofs

open Sys2Proof.Machine Sys2Proof.Machine.State

/-- Settles O48: the oldest record without a mark is the one a mark or a miss settles. -/
theorem marksAreTakenOrMissed : Obligations.MarksAreTakenOrMissed := by
  unfold Obligations.MarksAreTakenOrMissed
  refine fun s c pre post x edge => ⟨fun hin => happens_event ?_, fun hin => happens_event ?_, happens_event rfl,
    fun hweb hpre hx => ?_⟩
  · simp only [markRise, hin, if_true]
  · simp only [markRise, hin, Bool.false_eq_true, if_false]
  · have hnext := Cutter.expectedRecord_at hweb hpre hx
    refine ⟨fun hb h1 h2 => ?_, Cutter.judge_ignored hnext, fun pre' y hlast => ?_, fun hnil => ?_⟩
    · rw [Cutter.judge_taken hnext hb h1 h2, hweb, settleMark_at _ _ x post hx pre hpre]
      rcases List.eq_nil_or_concat pre with rfl | ⟨pre', y, rfl⟩
      · rfl
      · simp
    · simp only [Cutter.miss, hweb, settleMark_at _ _ x post hx pre hpre]
      simp [hlast]
    · simp only [Cutter.miss, hweb, settleMark_at _ _ x post hx pre hpre]
      simp [hnil]

/-- Settles O49: each row moves the blade on from the state it is in. -/
theorem bladeFollowsItsInputs : Obligations.BladeFollowsItsInputs := by
  unfold Obligations.BladeFollowsItsInputs
  refine fun s b => ⟨fun t d e hb he => ⟨fun hout => ?_, fun hin => happens_event ?_⟩, fun hb => happens_event ?_,
    fun t e hb he => ?_, fun hb => happens_event ?_, fun hon hb => happens_event ?_, fun hno => happens_event ?_⟩
  · refine ⟨{ e with cutter.blade := .returning e.ms }, happens_event ?_, ?_, rfl⟩
    · simp only [dwellEnds, hb, ← he, hout, Bool.false_eq_true, if_false]
    · show e.now = _
      rw [he, passTo_now]
  · simp only [dwellEnds, hb, ← he]
    rw [if_pos hin]
    rfl
  · simp only [dwellEnds]
  · refine ⟨({ e with cutter.blade := .stuck } : State).addCause .cutter, happens_event ?_, ?_, ?_, ?_⟩
    · simp only [returnTimeout, hb, ← he]
    · rw [addCause_now]
      show e.now = _
      rw [he, passTo_now]
    · rw [addCause_cutter]
    · rw [addCause_faults]
      rfl
  · simp only [returnTimeout]
  · simp only [homeChange, hon]
    rcases hb with h | ⟨t, h⟩
    · simp only [h, if_true]
      rfl
    · simp only [h, if_true]
      rfl
  · simp only [homeChange]
    split
    · next t h =>
      have hoff : b = false := by
        rcases hno with e | e | ⟨_, _, e⟩
        · exact e
        · rw [h] at e; cases e
        · rw [h] at e; cases e
      rw [if_neg (by simp [hoff])]
    · next h =>
      have hoff : b = false := by
        rcases hno with e | e | ⟨_, _, e⟩
        · exact e
        · rw [h] at e; cases e
        · rw [h] at e; cases e
      rw [if_neg (by simp [hoff])]
    · rfl

/-- Settles O50: a fired cut completes the piece ahead of it, and opens the record behind. -/
theorem cutFiresWhenDue : Obligations.CutFiresWhenDue := by
  unfold Obligations.CutFiresWhenDue
  refine fun s => ⟨tryCut_off, fun hdue hin => ⟨fun hout => ?_, fun hhome => ?_⟩⟩
  · rw [tryCut_stuck hdue hin hout]
    exact ⟨addCause_cutter _ _, addCause_faults _ _, addCause_monitor _ _⟩
  · rw [tryCut_fires hdue hin hhome]
    obtain ⟨hcutter, hmonitor⟩ := fireCut_units s
    rw [hcutter, hmonitor]
    have hblade : s.swung.completePiece.cutter.lastCut = some s.transport.position ∧
        s.swung.completePiece.cutter.blade = .down (s.now / 1000) s.cutter.cutDwell ∧
        s.swung.completePiece.cutter.homeInput = false := by
      cases hx : s.swung.cutter.openPiece with
      | none =>
        rw [(completePiece_chute fun x h => by rw [hx] at h; cases h).1]
        exact ⟨rfl, rfl, rfl⟩
      | some x => cases hk : x.kind.sheet with
        | some k =>
          rw [(completePiece_sheet hx hk).1]
          exact ⟨rfl, rfl, rfl⟩
        | none =>
          rw [(completePiece_chute fun y h => by rw [hx] at h; cases h; exact hk).1]
          exact ⟨rfl, rfl, rfl⟩
    obtain ⟨hlast, hdown, hoff⟩ := hblade
    refine ⟨hlast, hdown, hoff, fun x rest k hweb hlead hk => ?_, fun x rest hweb hlead hk => ?_,
      fun x rest hweb hlead => ?_⟩
    · have hx : s.swung.cutter.openPiece = some x := by
        simp only [Cutter.openPiece, show s.swung.cutter.web = x :: rest from hweb, hlead, if_true]
      obtain ⟨h1, h2⟩ := completePiece_sheet hx hk
      rw [h1, h2]
      refine ⟨rfl, rfl, ?_⟩
      show openAtCut (s.cutter.web.drop 1) = _
      rw [hweb]
      rfl
    · have hx : s.swung.cutter.openPiece = some x := by
        simp only [Cutter.openPiece, show s.swung.cutter.web = x :: rest from hweb, hlead, if_true]
      obtain ⟨h1, h2⟩ := completePiece_chute (s := s.swung) fun y h => by rw [hx] at h; cases h; exact hk
      rw [h1, h2]
      refine ⟨rfl, rfl, ?_⟩
      simp only [Cutter.behind, hx, Option.isSome_some, if_true, show s.swung.cutter.web = x :: rest from hweb]
      rfl
    · have hx : s.swung.cutter.openPiece = none := by
        simp only [Cutter.openPiece, show s.swung.cutter.web = x :: rest from hweb, hlead, Bool.false_eq_true,
          if_false]
      obtain ⟨h1, h2⟩ := completePiece_chute (s := s.swung) fun y h => by rw [hx] at h; cases h
      rw [h1, h2]
      refine ⟨rfl, rfl, ?_⟩
      simp only [Cutter.behind, hx, Option.isSome_none, Bool.false_eq_true, if_false]
      rfl

/-- Settles O46: an input is a change of the slot's record, a paper end perhaps the end of the frame too. -/
theorem magazineInputsAreTaken : Obligations.MagazineInputsAreTaken := by
  unfold Obligations.MagazineInputsAreTaken
  intro m b strip s g hg
  have hend : s.paperEnd m b = if b && !g.endInput && s.transport.threaded == some m && !g.endSeen then
      (s.modMag (fun x => { x with endInput := b }) m).takePaperEnd m
      else s.modMag (fun x => { x with endInput := b }) m := by
    simp only [paperEnd, hg]
    rw [(modMag_rest s (fun x => { x with endInput := b }) m).2.2.2.2.1]
  refine ⟨happens_event ?_, fun hsame => happens_event ?_, fun hnew => happens_event ?_, fun hno => happens_event ?_,
    fun hb hin hthr hseen => ?_⟩
  · simp only [detectInput]
    rw [modMag_eq, ← hg]
    simp only [beq_iff_eq]
    rfl
  · simp only [debounce, ← hg, hsame, beq_self_eq_true, if_true]
  · simp only [debounce, ← hg, beq_iff_eq, if_neg hnew]
  · rw [hend, if_neg]
    rcases hno with e | e | e | e <;> simp [e]
  · have htake : s.paperEnd m b = (s.modMag (fun x => { x with endInput := b }) m).takePaperEnd m := by
      rw [hend, if_pos (by simp [hb, hin, hthr, hseen])]
    obtain ⟨rengine, rcutter, rbook, _, _, rlead, _⟩ := modMag_rest s (fun x => { x with endInput := b }) m
    refine ⟨_, happens_event htake, ?_, fun c hc => ⟨fun hlong => ?_, fun hshort => ?_⟩, fun hw => ?_⟩
    · rw [mag_congr (takePaperEnd_facts _ m).1 m, mag_modMag, mag_modMag, rlead, ← hg, hb]
    · have hframe : ∀ f : Mag → Mag, ((s.modMag (fun x => { x with endInput := b }) m).modMag f m).frame? =
          some c := fun f => by
        rw [frame?_iff, (modMag_rest _ f m).1, rengine, hc]
      have hcut := takePaperEnd_cuts (s := s.modMag (fun x => { x with endInput := b }) m) m
        ((frame?_iff _ c).2 (by rw [rengine, hc])) (by rw [rlead]; exact hlong)
      rw [hcut]
      obtain ⟨hidle, hbook, hcutter⟩ := abortWaste_facts (hframe _)
      refine ⟨hidle, hbook.trans (spoil?_book_congr ?_ _), (congrArg Cutter.web hcutter).trans ?_⟩
      · rw [(modMag_rest _ _ m).2.2.1, rbook]
      · simp only [(modMag_rest _ _ m).2.1]
    · rw [takePaperEnd_spares m fun d hd => ?_]
      · obtain ⟨h1, h2, h3, _⟩ := modMag_rest (s.modMag (fun x => { x with endInput := b }) m) (fun g =>
          { g with remaining := .mm (s.modMag (fun x => { x with endInput := b }) m).transport.endLead
                   endSeen := true, carry := 0 }) m
        exact ⟨h1.trans rengine, h2.trans rcutter, h3.trans rbook⟩
      · rw [frame?_iff, rengine, hc] at hd
        cases hd
        rw [rlead]
        exact hshort
    · rw [takePaperEnd_spares m fun d hd => ?_]
      · obtain ⟨h1, h2, h3, _⟩ := modMag_rest (s.modMag (fun x => { x with endInput := b }) m) (fun g =>
          { g with remaining := .mm (s.modMag (fun x => { x with endInput := b }) m).transport.endLead
                   endSeen := true, carry := 0 }) m
        exact ⟨h1.trans rengine, h2.trans rcutter, h3.trans rbook⟩
      · rw [frame?_iff, rengine, ← frame?_iff, frame?_none_of hw] at hd
        cases hd

/-- Settles O51: the bin's state decides. -/
theorem binEmptiedFreesPurgedBins : Obligations.BinEmptiedFreesPurgedBins := by
  unfold Obligations.BinEmptiedFreesPurgedBins
  intro h b s hp
  have hl := mem_linePort hp
  refine ⟨fun hbig => refused_of hl ?_, fun hzero => served_done hl ?_, fun h1 h2 => ?_⟩
  · simp only [binEmptied, if_pos hbig]
  · simp only [binEmptied, hzero, if_neg (show ¬ 24 < 0 by omega), if_true]
  · have hin : ¬ 24 < b.toNat := by omega
    have hbin : ¬ b.toNat = 0 := by omega
    refine ⟨fun hst => served_done hl ?_, fun hst => served_done hl ?_, fun hst1 hst2 => refused_of hl ?_⟩
    · simp only [binEmptied, if_neg hin, if_neg hbin, hst, freeBinList, Sorter.modBins, List.foldl,
        List.isEmpty_cons, Bool.false_eq_true, if_false]
      rfl
    · simp only [binEmptied, if_neg hin, if_neg hbin, hst]
    · simp only [binEmptied, if_neg hin, if_neg hbin]

/-- Settles O55: a timer's end moves the time base and takes the next state of its cycle. -/
theorem processorTimersRun : Obligations.ProcessorTimersRun := by
  unfold Obligations.ProcessorTimersRun
  refine fun s => ⟨fun e he => ?_, fun t n e hp he => ?_, fun hp => happens_event ?_, fun t n e hp he => ?_,
    fun hp => happens_event ?_, fun t ht => happens_event ?_, fun ht => happens_event ?_⟩
  · refine ⟨({ e with
      monitor.second := s.monitor.second + 1
      monitor.buckets := modAt (fun _ => 0) e.monitor.buckets ((s.monitor.second + 1) % 60) } : State).dueAttempt,
      happens_event ?_, ?_, rfl, rfl⟩
    · simp only [bucketAdvance, ← he]
    · show e.now = _
      rw [he, passTo_now, Nat.mul_assoc]
  · refine ⟨{ e with
      monitor.pulses := e.monitor.pulses - 1
      monitor.pump := .gap e.ms e.monitor.replPulse }, happens_event ?_, ?_, rfl⟩
    · simp only [pulseEnds, hp, ← he]
    · show e.now = _
      rw [he, passTo_now]
  · simp only [pulseEnds]
  · have hnow : e.now = max s.now ((t + n) * 1000) := by rw [he, passTo_now]
    refine ⟨({ e with monitor.pump := .idle } : State).startPump, happens_event ?_, ?_, ?_⟩
    · simp only [gapEnds, hp, ← he]
    · rw [startPump_tr]
      exact hnow
    · rw [startPump_idle rfl, startPump_tr]
      rfl
  · simp only [gapEnds]
  · simp only [gateOff, ht]
  · simp only [gateOff, ht]

end Sys2Proof.Proofs
end


section
/-! Frame choice (O57), the lines of a frame (O58), drive codes and back print (O59). -/

set_option Elab.async false

namespace Sys2Proof.Machine

/-! ### Frame choice -/

theorem Order.countsAt_item (o : Order) {k : Nat} (h : 1 ≤ k) : o.countsAt k = (o.items[k - 1]?).map (·.n) := by
  simp only [countsAt, if_neg (show ¬ k = 0 by omega)]

theorem Order.mem_pendingItems (o : Order) (k : Nat) :
    k ∈ o.pendingItems ↔ 1 ≤ k ∧ ∃ x, o.items[k - 1]? = some x ∧ 0 < x.n.p := by
  simp only [pendingItems, List.mem_filter, List.mem_map, List.mem_range]
  constructor
  · rintro ⟨⟨j, _, rfl⟩, hp⟩
    rw [countsAt_item o (by omega), Nat.add_sub_cancel] at hp
    rw [Nat.add_sub_cancel]
    cases hx : o.items[j]? with
    | none => simp [hx] at hp
    | some x => exact ⟨by omega, x, rfl, by simpa [hx] using hp⟩
  · rintro ⟨h1, x, hx, hp⟩
    refine ⟨⟨k - 1, (List.getElem?_eq_some_iff.1 hx).1, by omega⟩, ?_⟩
    simpa [countsAt_item o h1, hx] using hp

theorem Order.pendingItems_nil (o : Order) : o.pendingItems = [] ↔ ∀ x ∈ o.items, x.n.p = 0 := by
  rw [List.eq_nil_iff_forall_not_mem]
  constructor
  · intro h x hx
    obtain ⟨j, hj, rfl⟩ := List.getElem_of_mem hx
    by_contra hp
    refine h (j + 1) ((mem_pendingItems o _).2 ⟨by omega, o.items[j], ?_, by omega⟩)
    simp [hj]
  · intro h k hk
    obtain ⟨_, x, hx, hp⟩ := (mem_pendingItems o k).1 hk
    rw [h x (List.mem_of_getElem? hx)] at hp
    exact absurd hp (by omega)

theorem Order.mem_candidates (o : Order) (k : Nat) : k ∈ o.candidates ↔
    (1 ≤ k ∧ ∃ x, o.items[k - 1]? = some x ∧ 0 < x.n.p) ∨
      (k = 0 ∧ (∀ x ∈ o.items, x.n.p = 0) ∧ ∃ x, o.index = some x ∧ 0 < x.n.p) := by
  rw [← mem_pendingItems, ← pendingItems_nil]
  by_cases he : o.pendingItems = []
  · have hindex : (o.countsAt 0).any (fun n => decide (0 < n.p)) = true ↔ ∃ x, o.index = some x ∧ 0 < x.n.p := by
      simp only [countsAt, if_true]
      cases o.index <;> simp
    simp only [candidates, he, List.isEmpty_nil, if_true, List.not_mem_nil, false_or, true_and, ← hindex]
    split
    · next h => simp [h]
    · next h => simp [h]
  · have hne : ¬ o.pendingItems.isEmpty = true := by simpa using he
    simp only [candidates, if_neg hne, he, false_and, and_false, or_false]

theorem Order.candidates_ascend (o : Order) : o.candidates.Pairwise (· < ·) := by
  simp only [candidates]
  split
  · split <;> simp
  · refine List.Pairwise.filter _ ?_
    rw [List.pairwise_map]
    exact List.Pairwise.imp (by omega) (List.pairwise_lt_range (n := o.items.length))

theorem firstSome_at {α β : Type} {f : α → Option β} {pre post : List α} {x : α} {y : β}
    (hpre : ∀ z ∈ pre, f z = none) (hx : f x = some y) : firstSome f (pre ++ x :: post) = some y := by
  induction pre with
  | nil => simp only [List.nil_append, firstSome, hx]
  | cons z pre ih =>
    simp only [List.cons_append, firstSome, hpre z (by simp)]
    exact ih fun w hw => hpre w (by simp [hw])

theorem firstSome_none {α β : Type} {f : α → Option β} : ∀ {l : List α}, (∀ z ∈ l, f z = none) →
    firstSome f l = none
  | [], _ => rfl
  | z :: l, h => by
    simp only [firstSome, h z (by simp)]
    exact firstSome_none fun w hw => h w (by simp [hw])

namespace State

theorem threadedSuits_iff (s : State) (o : Order) (k : Nat) :
    s.threadedSuits o k = true ↔ ∃ t, s.transport.threaded = some t ∧ s.itemSuits o t k = true := by
  simp only [threadedSuits]
  cases s.transport.threaded <;> simp

theorem changeFor_none {s : State} {o : Order} {k : Nat}
    (h : ∀ t, s.transport.threaded ≠ some t → s.itemSuits o t k = false) : s.changeFor o k = none := by
  simp only [changeFor, List.find?_eq_none]
  intro t _
  by_cases ht : s.transport.threaded = some t
  · simp [ht]
  · simp [h t ht]

theorem changeFor_some {s : State} {o : Order} {k : Nat} {m : MagSlot} (hthr : s.transport.threaded ≠ some m)
    (hm : s.itemSuits o m k = true)
    (hfirst : m = .m2 → s.transport.threaded ≠ some .m1 → s.itemSuits o .m1 k = false) :
    s.changeFor o k = some m := by
  have hyes : (s.transport.threaded != some m && s.itemSuits o m k) = true := by simp [hthr, hm]
  cases m with
  | m1 => exact List.find?_cons_of_pos hyes
  | m2 =>
    have hno : (s.transport.threaded != some .m1 && s.itemSuits o .m1 k) = false := by
      by_cases h1 : s.transport.threaded = some .m1
      · simp [h1]
      · simp [hfirst rfl h1]
    simp only [changeFor, List.find?, hno, hyes]

theorem choose_threaded_none {s : State} {o : Order}
    (h : ∀ j ∈ o.candidates, ∀ t, s.transport.threaded = some t → s.itemSuits o t j = false) :
    o.candidates.find? (s.threadedSuits o) = none := by
  rw [List.find?_eq_none]
  intro j hj hsuits
  obtain ⟨t, ht, hs⟩ := (threadedSuits_iff s o j).1 hsuits
  rw [h j hj t ht] at hs
  cases hs

theorem suits_iff (s : State) (m : MagSlot) (g : Geometry) : s.suits m g = true ↔
    ∃ c, (s.mag m).ctx = some c ∧ (s.magState m = .ready ∨ s.magState m = .active ∨ s.magState m = .low) ∧
      c.width = g.across ∧ (g.surface = .any ∨ g.surface = .of c.surface) ∧
      ((s.mag m).remaining = .unknown ∨ ∃ n, (s.mag m).remaining = .mm n ∧ g.along + 100 ≤ n) := by
  have hroll : (s.mag m).remaining.reserves g.along = true ↔
      (s.mag m).remaining = .unknown ∨ ∃ n, (s.mag m).remaining = .mm n ∧ g.along + 100 ≤ n := by
    cases (s.mag m).remaining <;> simp [Remaining.reserves]
  have hsurface : ∀ c : MagContext, g.surface.suits c.surface = true ↔
      g.surface = .any ∨ g.surface = .of c.surface := by
    intro c
    cases g.surface <;> simp [ProductSurface.suits]
  simp only [suits, Bool.and_eq_true, hroll]
  cases hc : (s.mag m).ctx with
  | none => simp
  | some c => cases s.magState m <;> simp [hsurface, and_assoc]

theorem itemSuits_iff (s : State) (o : Order) (m : MagSlot) (k : Nat) :
    s.itemSuits o m k = true ↔ ∃ g, o.frameGeom k = some g ∧ s.suits m g = true := by
  simp only [itemSuits]
  cases o.frameGeom k <;> simp

/-! ### Lines -/

/-- How many lines the position has reached (R72, R76). -/
def linesReached (start total pos : Nat) : Nat := if pos < start then 0 else min total ((pos - start) / 2 + 1)

theorem linesDue_eq (start next total pos : Nat) :
    linesDue start next total pos = max next (linesReached start total pos) := by
  simp only [linesDue, linesReached]
  split
  · exact (Nat.max_eq_left (Nat.zero_le _)).symm
  · rfl

theorem writeLines_reached {s : State} {c : FrameContext} (hw : s.engine.work = .frame c)
    (h : linesReached c.start c.total s.transport.position ≤ c.next) : s.writeLines = s := by
  simp only [writeLines, hw, linesDue_eq, Nat.max_eq_left h, Nat.le_refl, if_true]

/-- Lines written: in order, each with its codes; the last one ends the frame (R72, R75, R89). -/
theorem writeLines_frame {s : State} {c : FrameContext} {n : Nat} (hw : s.engine.work = .frame c)
    (hn : linesReached c.start c.total s.transport.position = n) (h : c.next < n) :
    s.writeLines = { s with
      engine := { s.engine with
        strobed := s.engine.strobed ++ strobeLines (frameLine s c) c.next (n - c.next)
        presented := .codes (frameLine s c (n - 1))
        strobe := if n = c.total then none else backPrintAt c n
        work := if n = c.total then .idle else .frame { c with next := n } }
      due := if n = c.total then { s.due with frameEnd := true } else s.due } := by
  simp only [writeLines, hw, linesDue_eq, hn, Nat.max_eq_right (Nat.le_of_lt h), if_neg (Nat.not_le.2 h)]
  by_cases hlast : n = c.total
  · simp only [if_pos hlast]
    rfl
  · simp only [if_neg hlast]

theorem writeLines_closing_reached {s : State} {start next : Nat} (hw : s.engine.work = .closing start next)
    (h : linesReached start 24 s.transport.position ≤ next) : s.writeLines = s := by
  simp only [writeLines, hw, linesDue_eq, Nat.max_eq_left h, Nat.le_refl, if_true]

theorem writeLines_closing {s : State} {start next n : Nat} (hw : s.engine.work = .closing start next)
    (hn : linesReached start 24 s.transport.position = n) (h : next < n) :
    s.writeLines = { s with engine := { s.engine with
      strobed := s.engine.strobed ++ strobeLines gapLine next (n - next)
      presented := .codes (gapLine (n - 1))
      work := if n = 24 then .idle else .closing start n } } := by
  simp only [writeLines, hw, linesDue_eq, hn, Nat.max_eq_right (Nat.le_of_lt h), if_neg (Nat.not_le.2 h)]

/-! ### The end of a frame -/

theorem heldAtEnd_facts (s : State) : s.heldAtEnd.ctl = s.ctl ∧
    ∀ i, s.heldAtEnd.orderAt i = if s.current = some i ∧ (s.orderAt i).holds.isEmpty = false then
      { s.orderAt i with state := .held } else s.orderAt i := by
  cases hc : s.current with
  | none => simp [heldAtEnd, hc]
  | some k =>
    have hk : k < s.book.records.length := (firstRecord_some hc).1
    cases he : (s.orderAt k).holds.isEmpty with
    | true =>
      have hstay : s.heldAtEnd = s := by simp only [heldAtEnd, hc, he, if_true]
      rw [hstay]
      refine ⟨rfl, fun i => ?_⟩
      rw [if_neg]
      rintro ⟨e, h⟩
      cases e
      rw [he] at h
      cases h
    | false =>
      have hheld : s.heldAtEnd = s.setOrderState k .held := by
        simp only [heldAtEnd, hc, he, Bool.false_eq_true, if_false]
      rw [hheld]
      refine ⟨by rw [setOrderState_frame s k .held], fun i => ?_⟩
      by_cases hi : i = k
      · subst hi
        rw [setOrderState_same s .held hk, if_pos ⟨rfl, he⟩]
      · rw [setOrderState_other s .held hi, if_neg fun h => hi (Option.some.inj h.1).symm]

theorem frameEndSteps_eq {s : State} (h : s.due.frameEnd = true) : s.frameEndSteps =
    ({ (if s.heldAtEnd.ctl.pausePending then
        { s.heldAtEnd with ctl.runEnable := false, ctl.pausePending := false } else s.heldAtEnd) with
      due.frameEnd := false } : State).dueScan.dueAttempt := by
  simp only [frameEndSteps, h, if_true]
  rfl

theorem frameEndSteps_facts {s : State} (h : s.due.frameEnd = true) :
    s.frameEndSteps.due = ⟨true, true, false⟩ ∧
      s.frameEndSteps.ctl = (if s.ctl.pausePending then
        { s.ctl with runEnable := false, pausePending := false } else s.ctl) ∧
      ∀ i, s.frameEndSteps.orderAt i = if s.current = some i ∧ (s.orderAt i).holds.isEmpty = false then
        { s.orderAt i with state := .held } else s.orderAt i := by
  obtain ⟨hctl, horder⟩ := heldAtEnd_facts s
  rw [frameEndSteps_eq h, ← hctl]
  by_cases hp : s.heldAtEnd.ctl.pausePending = true
  · simp only [if_pos hp]
    exact ⟨rfl, rfl, horder⟩
  · simp only [if_neg hp]
    exact ⟨rfl, rfl, horder⟩

/-! ### Drive codes -/

theorem gapLine_at (k x : Nat) (ch : Channel) (h : x < Config.headElements) :
    (rgbGet (gapLine k) ch)[x]? = some (gapCode k x) := by
  cases ch <;> simp [gapLine, Rgb.all, rgbGet, h]

theorem pixelCode_range (curve drive : List Nat) (b t : Int) (o m v : Nat) :
    8 ≤ pixelCode curve drive b t o m v ∧ pixelCode curve drive b t o m v ≤ 1015 := by
  simp only [pixelCode]
  omega

theorem elementCode_range (s : State) (c : FrameContext) (ch : Channel) (x y : Nat) :
    elementCode s c ch x y = 0 ∨ 8 ≤ elementCode s c ch x y ∧ elementCode s c ch x y ≤ 1015 := by
  simp only [elementCode]
  split
  · exact .inl rfl
  · exact .inr (pixelCode_range ..)

theorem imageLine_at (s : State) (c : FrameContext) {k x : Nat} (ch : Channel) (hk : 24 ≤ k)
    (h : x < Config.headElements) :
    (rgbGet (frameLine s c k) ch)[x]? = some (elementCode s c ch x (k - 24)) := by
  simp only [frameLine, if_neg (Nat.not_lt.2 hk)]
  cases ch <;> simp [rgbGet, h]

theorem headDrive_zero {s : State} (hcal : s.ctl.line ≠ .calibrating) (h : s.engine.work = .idle ∨
    (∃ c, s.engine.work = .frame c ∧ c.next = 0) ∨ ∃ start, s.engine.work = .closing start 0) :
    s.headDrive = .zero := by
  simp only [headDrive, beq_iff_eq, if_neg hcal]
  rcases h with e | ⟨c, e, hc⟩ | ⟨start, e⟩
  · simp only [e]
  · simp only [e, hc, if_true]
  · simp only [e, if_true]

theorem backPrint_of (s : State) : (∀ b, s.engine.strobe = some b → s.backPrint = (true, b.number, b.seq)) ∧
    (s.engine.strobe = none → s.backPrint = (false, 0, 0)) := by
  constructor
  · intro b h
    simp only [backPrint, h]
  · intro h
    simp only [backPrint, h]

theorem backPrintAt_on {c : FrameContext} {t : Target} {n : Nat} (ht : c.target = some t) (hk : c.kind = .print)
    (he : c.bpEnable = true) (h1 : 24 + c.bpStart < n) (h2 : n ≤ 24 + c.bpStop) :
    backPrintAt c n = some ⟨t.number, c.bpSeq⟩ := by
  simp only [backPrintAt, hk, ht, he, h1, h2, and_self, if_true]

theorem backPrintAt_off {c : FrameContext} {n : Nat} (h : c.target = none ∨ c.kind ≠ .print ∨ c.bpEnable = false ∨
    n ≤ 24 + c.bpStart ∨ 24 + c.bpStop < n) : backPrintAt c n = none := by
  simp only [backPrintAt]
  split
  · next hk ht =>
    refine if_neg fun hon => ?_
    obtain ⟨he, h1, h2⟩ := hon
    rcases h with e | e | e | e | e
    · rw [e] at ht; cases ht
    · exact e hk
    · rw [e] at he; cases he
    · omega
    · omega
  · rfl

end State

end Sys2Proof.Machine

namespace Sys2Proof.Proofs

open Sys2Proof.Machine Sys2Proof.Machine.State

/-- Settles O57: the choice looks through the candidates in item order, the threaded magazine first. -/
theorem frameChoiceFollowsThePaper : Obligations.FrameChoiceFollowsThePaper := by
  unfold Obligations.FrameChoiceFollowsThePaper
  refine ⟨Order.mem_candidates, Order.candidates_ascend, fun s o pre post k m hc => ⟨fun hthr hk hpre => ?_,
    fun hthr hpre hm hk hfirst => ?_⟩, fun s o hno => ?_, fun s o m k => ?_⟩
  · have hnone : pre.find? (s.threadedSuits o) = none := by
      rw [List.find?_eq_none]
      intro j hj hsuits
      obtain ⟨t, ht, hs⟩ := (threadedSuits_iff s o j).1 hsuits
      rw [hthr] at ht
      cases ht
      rw [hpre j hj] at hs
      cases hs
    have hfind : o.candidates.find? (s.threadedSuits o) = some k := by
      rw [hc, List.find?_append, hnone, Option.none_or]
      exact List.find?_cons_of_pos ((threadedSuits_iff s o k).2 ⟨m, hthr, hk⟩)
    simp only [choose, hfind]
  · have hchange : firstSome (s.changeFor o) o.candidates = some m := by
      rw [hc]
      exact firstSome_at (fun j hj => changeFor_none (hpre j hj)) (changeFor_some hm hk hfirst)
    simp only [choose, choose_threaded_none hthr, hchange]
  · have hchange : firstSome (s.changeFor o) o.candidates = none :=
      firstSome_none fun j hj => changeFor_none fun t _ => hno j hj t
    simp only [choose, choose_threaded_none fun j hj t _ => hno j hj t, hchange]
  · simp only [itemSuits_iff, suits_iff, exists_and_left]

/-- Settles O58: the engine writes up to the lines the position has reached; a frame's end is reported. -/
theorem linesAreWrittenOnceAndEndTheFrame : Obligations.LinesAreWrittenOnceAndEndTheFrame := by
  unfold Obligations.LinesAreWrittenOnceAndEndTheFrame
  refine ⟨fun s t c n hw ht hn => ⟨fun hle => ?_, fun hlt => ?_⟩, fun s t start next n hw ht hn =>
    ⟨fun hle => ?_, fun hlt => ?_⟩, fun s => ⟨fun hw => ?_, fun hf => ?_, frameEndSteps_facts⟩⟩
  · subst hn ht
    exact writeLines_reached hw hle
  · have hlines := writeLines_frame hw hn.symm hlt
    rw [← ht] at hlines
    rw [hlines]
    refine ⟨rfl, rfl, fun hmore => ?_, fun hlast => ?_, rfl⟩
    · have hno : ¬ n = c.total := Nat.ne_of_lt hmore
      simp only [if_neg hno, and_self]
    · have hyes : n = c.total := hlast
      simp only [if_pos hyes, and_self]
  · subst hn ht
    exact writeLines_closing_reached hw hle
  · have hlines := writeLines_closing hw hn.symm hlt
    rw [← ht] at hlines
    rw [hlines]
    exact ⟨rfl, rfl, rfl, rfl⟩
  · simp only [writeLines, hw]
  · simp only [frameEndSteps, hf, Bool.false_eq_true, if_false]

/-- Settles O59: gap lines carry the mark band, image lines clamped codes; the strobe follows `backPrintAt`. -/
theorem driveCodesStayInRange : Obligations.DriveCodesStayInRange := by
  unfold Obligations.DriveCodesStayInRange
  refine ⟨fun s c k x ch hx => ⟨fun hk => ?_, fun hk => ?_⟩, fun s ch x hrest hx hcal hwork => ?_,
    fun s t c n hw ht hn hlt => ⟨fun x hx hk he h1 h2 hmore => ?_, fun hoff => ?_⟩, fun s hw => ?_⟩
  · simp only [frameLine, if_pos hk]
    exact gapLine_at k x ch hx
  · exact ⟨_, imageLine_at s c ch hk hx, elementCode_range s c ch x (k - 24)⟩
  · have hzero : s.engine.presented = .zero := by rw [hrest.head, headDrive_zero hcal hwork]
    simp only [driveCode, hzero]
    exact if_pos hx
  · refine (backPrint_of t).1 ⟨x.number, c.bpSeq⟩ ?_
    rw [ht, writeLines_frame hw hn.symm hlt]
    have hno : ¬ n = c.total := Nat.ne_of_lt hmore
    simp only [if_neg hno]
    exact backPrintAt_on hx hk he h1 h2
  · refine (backPrint_of t).2 ?_
    rw [ht, writeLines_frame hw hn.symm hlt]
    by_cases hlast : n = c.total
    · simp only [if_pos hlast]
    · simp only [if_neg hlast]
      refine backPrintAt_off ?_
      rcases hoff with e | e | e | e | e | e
      · exact .inl e
      · exact .inr (.inl e)
      · exact .inr (.inr (.inl e))
      · exact .inr (.inr (.inr (.inl e)))
      · exact .inr (.inr (.inr (.inr e)))
      · exact absurd e hlast
  · refine (backPrint_of _).2 ?_
    rw [abortFrame_frame hw]
    rfl

end Sys2Proof.Proofs
end


section
/-! The position and the roll (O43), the encoder's health (O44), the clear probe's end (O45). -/

set_option Elab.async false

namespace Sys2Proof.Machine

/-! ### The roll -/

theorem Mag.consume_none {m : Mag} {pos : Nat} (h : pos ≤ m.consumedTo) : m.consume pos = m := by
  simp only [consume, if_neg (Nat.not_lt.2 h)]

theorem Mag.consume_some {m : Mag} {pos : Nat} (hseen : m.endSeen = false) (h : m.consumedTo < pos) :
    m.consume pos = { m with
      consumedTo := pos, carry := (m.carry + (pos - m.consumedTo)) % 40
      remaining := m.remaining.take ((m.carry + (pos - m.consumedTo)) / 40) } := by
  simp only [consume, if_pos h, hseen, Bool.false_and, Bool.false_eq_true, if_false]

namespace State

/-! ### Counts -/

theorem countSeen_eq (s : State) (f : Bool) : s.countSeen f = { s with
    transport.lastCount := s.now / 1000
    transport.pulseUs := if f then s.transport.pulseUs else none } := rfl

theorem countedPosition_eq (s : State) (f : Bool) : s.countedPosition f =
    if f then min 281474976710655 (s.transport.position + 1) else s.transport.position - 1 := rfl

/-- A count in a clear probe: the position moves, and the 40th in time passes the probe (R115). -/
theorem probeCount_facts (s : State) (q : Probe) (f : Bool) :
    (s.probeCount q f).transport.position = s.countedPosition f ∧
      (q.counts + 1 < 40 ∨ q.start + 200 < s.now / 1000 →
        (s.probeCount q f).transport.probe = some ⟨q.start, q.counts + 1⟩ ∧
          (s.probeCount q f).ctl.lastProbe = s.ctl.lastProbe) ∧
      (40 ≤ q.counts + 1 → s.now / 1000 ≤ q.start + 200 → (s.probeCount q f).transport.probe = none ∧
        (s.probeCount q f).transport.encoder = false ∧ (s.probeCount q f).transport.deadReckoning = none ∧
        (s.probeCount q f).ctl.lastProbe = .passed ∧ (s.probeCount q f).ctl.faults.encoder = false) := by
  obtain ⟨hpos, hprobe, hlast, hnow⟩ := moveTo_tr
    { s with transport.probe := some { q with counts := q.counts + 1 } } (s.countedPosition f)
  have hcount : s.probeCount q f =
      if 40 ≤ q.counts + 1 ∧ s.ms ≤ q.start + 200 then
        (({ s with transport.probe := some { q with counts := q.counts + 1 } } : State).moveTo
          (s.countedPosition f)).probePasses
      else ({ s with transport.probe := some { q with counts := q.counts + 1 } } : State).moveTo
        (s.countedPosition f) := by
    rw [show s.ms = (({ s with transport.probe := some { q with counts := q.counts + 1 } } : State).moveTo
      (s.countedPosition f)).ms by rw [ms, ms, hnow]]
    rfl
  obtain ⟨p1, p2, p3, _, _, p6, p7, p8, _⟩ := probePasses_facts
    (({ s with transport.probe := some { q with counts := q.counts + 1 } } : State).moveTo (s.countedPosition f))
  rw [hcount]
  by_cases hpass : 40 ≤ q.counts + 1 ∧ s.ms ≤ q.start + 200
  · have hms : s.now / 1000 ≤ q.start + 200 := hpass.2
    rw [if_pos hpass, p1, p2, p3, p6, p7, p8]
    exact ⟨hpos, fun h => by omega, fun _ _ => ⟨rfl, rfl, rfl, rfl, rfl⟩⟩
  · rw [if_neg hpass]
    exact ⟨hpos, fun _ => ⟨hprobe, hlast⟩, fun h1 h2 => absurd ⟨h1, h2⟩ hpass⟩

theorem reckons_of_probe {s : State} {q : Probe} (h : s.transport.probe = some q) : s.reckons = false := by
  simp [reckons, h]

/-! ### Encoder health -/

theorem indexPulse_on {s : State} (h : s.transport.encoder = true) : s.indexPulse = s := by
  simp only [indexPulse, h, if_true]

/-- The reference, the revolution and the pulse an index pulse leaves (R111, R113). -/
def pulsed (s t : State) : State :=
  { t with
    transport.indexRef := some s.transport.position
    transport.revInUse := s.transport.countsPerRev
    transport.pulseUs := if s.transport.motor then some s.now else none }

theorem indexPulse_first {s : State} (h : s.transport.encoder = false) (hr : s.transport.indexRef = none) :
    s.indexPulse = s.pulsed s := by
  have hno : ¬ s.transport.encoder = true := by simp [h]
  simp only [indexPulse, if_neg hno, hr]
  rfl

theorem indexPulse_next {s : State} {r : Nat} (h : s.transport.encoder = false)
    (hr : s.transport.indexRef = some r) : s.indexPulse = s.pulsed (s.indexCheck r) := by
  have hno : ¬ s.transport.encoder = true := by simp [h]
  simp only [indexPulse, if_neg hno, hr]
  rfl

/-- The pulse lies within 4 counts of a revolution from the reference (R111). -/
def onTime (s : State) (r : Nat) : Prop :=
  s.transport.countsPerRev ≤ distance s.transport.position r + 4 ∧
    distance s.transport.position r ≤ s.transport.countsPerRev + 4

/-- What every match writes: the mismatch run ends, and the run of the motor has had its match. -/
def indexMatched (s : State) : State :=
  { s with transport.mismatches := 0, transport.matched := s.transport.motor }

theorem indexCheck_formed {s : State} {r p : Nat} (hin : s.onTime r) (hp : s.transport.pulseUs = some p)
    (hm : s.transport.motor = true) (hmat : s.transport.matched = true) :
    s.indexCheck r = s.indexMatched.formSpeed (s.now - p) := by
  have hboth : (s.transport.motor && s.transport.matched) = true := by simp [hm, hmat]
  have hin' := hin
  simp only [onTime] at hin'
  simp only [indexCheck, if_pos hin', hp, hboth, if_true, indexMatched]

theorem indexCheck_unformed {s : State} {r : Nat} (hin : s.onTime r)
    (h : s.transport.pulseUs = none ∨ s.transport.motor = false ∨ s.transport.matched = false) :
    s.indexCheck r = s.indexMatched := by
  have hin' := hin
  simp only [onTime] at hin'
  cases hp : s.transport.pulseUs with
  | none => simp only [indexCheck, if_pos hin', hp, indexMatched]
  | some p =>
    have hboth : ¬(s.transport.motor && s.transport.matched) = true := by
      rcases h with e | e | e
      · rw [hp] at e; cases e
      · simp [e]
      · simp [e]
    simp only [indexCheck, if_pos hin', hp, if_neg hboth, indexMatched]

/-- Forming a speed writes the speed, a free count at most besides (R113). -/
theorem formSpeed_facts (s : State) (n : Nat) :
    (s.formSpeed n).transport = { s.transport with speed := (s.formSpeed n).transport.speed } ∧
      (0 < n → (s.formSpeed n).transport.speed = some (roundHalfUp (s.transport.countsPerRev * 1000000) n)) ∧
      (n = 0 → (s.formSpeed n).transport.speed = some (Config.speedAtZeroInterval s.freeCount)) := by
  simp only [formSpeed]
  split
  · exact ⟨rfl, fun _ => by omega, fun _ => rfl⟩
  · exact ⟨rfl, fun _ => rfl, fun _ => by omega⟩

/-- A match writes the mismatch run, the match mark and the speed (R111, R113). -/
theorem indexCheck_match {s : State} {r : Nat} (hin : s.onTime r) : (s.indexCheck r).transport = { s.transport with
    mismatches := 0, matched := s.transport.motor, speed := (s.indexCheck r).transport.speed } := by
  by_cases h : ∃ p, s.transport.pulseUs = some p ∧ s.transport.motor = true ∧ s.transport.matched = true
  · obtain ⟨p, hp, hm, hmat⟩ := h
    rw [indexCheck_formed hin hp hm hmat]
    exact (formSpeed_facts s.indexMatched (s.now - p)).1
  · rw [indexCheck_unformed hin]
    · rfl
    · cases hp : s.transport.pulseUs with
      | none => exact .inl rfl
      | some p =>
        cases hm : s.transport.motor with
        | false => exact .inr (.inl rfl)
        | true =>
          refine .inr (.inr ?_)
          rw [Bool.eq_false_iff]
          exact fun hmat => h ⟨p, hp, hm, hmat⟩

/-- One mismatch more; with the second the ENCODER condition arises (R111, R114). -/
theorem mismatch_facts (s : State) : (s.mismatch.transport.mismatches = s.transport.mismatches + 1 ∧
    s.mismatch.transport.matched = s.transport.matched ∧ s.mismatch.transport.speed = s.transport.speed ∧
    s.mismatch.transport.position = s.transport.position) ∧
    (s.transport.mismatches = 0 → s.mismatch.transport.encoder = s.transport.encoder) ∧
    (1 ≤ s.transport.mismatches → s.mismatch.transport.encoder = true ∧
      s.mismatch.transport.deadReckoning = some ⟨s.transport.position, s.transport.speedInUse, 0⟩ ∧
      s.mismatch.cutter.web = s.cutter.web.map fun x => { x with inspect := true }) := by
  simp only [mismatch]
  split
  · next h =>
    rw [encoderArises_facts]
    exact ⟨⟨rfl, rfl, rfl, rfl⟩, fun h0 => by simp [h0] at h, fun _ => ⟨rfl, rfl, rfl⟩⟩
  · next h =>
    exact ⟨⟨rfl, rfl, rfl, rfl⟩, fun _ => rfl, fun h1 => absurd (Nat.succ_le_succ h1) h⟩

theorem indexCheck_off {s : State} {r : Nat} (h : s.transport.countsPerRev + 4 < distance s.transport.position r ∨
    distance s.transport.position r + 4 < s.transport.countsPerRev) : s.indexCheck r = s.mismatch := by
  have hout : ¬(s.transport.countsPerRev ≤ distance s.transport.position r + 4 ∧
      distance s.transport.position r ≤ s.transport.countsPerRev + 4) := by omega
  simp only [indexCheck, if_neg hout]

/-! ### The clear probe -/

theorem probeFails_facts (s : State) : s.probeFails.transport.probe = none ∧ s.probeFails.now = s.now ∧
    s.probeFails.ctl = { s.ctl with lastProbe := .failed } ∧
    s.probeFails.transport.encoder = s.transport.encoder ∧
    (∀ d, s.probeFails.transport.deadReckoning = some d → d.base = s.transport.position ∧ d.runUs = 0) ∧
    s.probeFails.lasting =
      ({ s with transport := s.probeFails.transport, ctl := s.probeFails.ctl } : State).lasting := by
  obtain ⟨m, sp, lc, pu, mt, nm, hframe⟩ := syncMotor_frame
    ({ s with transport.probe := none, ctl.lastProbe := .failed } : State).rebase
  rw [probeFails, hframe]
  refine ⟨rfl, rfl, rfl, rfl, fun d hd => ?_, rfl⟩
  obtain ⟨d', _, rfl⟩ := Option.map_eq_some_iff.1 hd
  exact ⟨rfl, rfl⟩

end State

end Sys2Proof.Machine

namespace Sys2Proof.Proofs

open Sys2Proof.Machine Sys2Proof.Machine.State

/-- Settles O43: a move of the position carries all that follows it; the roll loses what passes. -/
theorem countsMovePositionAndRoll : Obligations.CountsMovePositionAndRoll := by
  unfold Obligations.CountsMovePositionAndRoll
  refine ⟨fun f us s c p hc hp => ?_, fun s t n => ⟨passTo_still s t, fun d hr hd hlt hn => ?_, passTo_frame s t⟩,
    fun m pos n hseen => ⟨Mag.consume_none, fun hlt => ?_⟩⟩
  · have hcount : s.countSeen f = c := hc ▸ countSeen_eq s f
    have hpos : c.countedPosition f = p := by
      rw [hp, hc]
      exact countedPosition_eq _ f
    have hprobe : c.transport.probe = s.transport.probe := by rw [hc]
    have hreck : c.transport.deadReckoning = s.transport.deadReckoning := by rw [hc]
    refine ⟨fun h1 h2 => happens_event ?_, fun h1 h2 => ⟨happens_event ?_, ?_⟩, fun q hq => ?_,
      fun hr => happens_event ?_, fun d hr hd r hrr => ⟨happens_event ?_, ?_, ?_⟩⟩
    · have hsome : c.transport.deadReckoning.isSome = true := by
        rw [hreck]
        exact Option.isSome_iff_ne_none.2 h2
      simp only [transition, hcount, hprobe, h1, hsome, if_true]
    · have hnone : c.transport.deadReckoning.isSome = false := by rw [hreck, h2]; rfl
      simp only [transition, hcount, hprobe, h1, hnone, Bool.false_eq_true, if_false, hpos]
    · rw [settle_position, (moveTo_tr c p).1]
    · obtain ⟨h1, h2, h3⟩ := probeCount_facts c q f
      have hnow : c.now = s.now := by rw [hc]
      have hlast : c.ctl.lastProbe = s.ctl.lastProbe := by rw [hc]
      rw [hpos] at h1
      rw [hnow, hlast] at h2
      rw [hnow] at h3
      refine ⟨c.probeCount q f, happens_event ?_, h1, h2, h3⟩
      simp only [transition, hcount, hprobe, hq]
    · simp only [reckon, hr, Bool.false_eq_true, if_false]
    · simp only [reckon, hr, if_true, pass_reckons s us d hr hd]
      rw [hrr]
      rfl
    · rw [settle_position, (moveTo_tr _ _).1]
    · rw [settle_now, (moveTo_tr _ _).2.2.2, elapse_now]
  · have hpass : s.passTo t = (s.elapse n).moveTo
        (min 281474976710655 (d.base + d.speed * (d.runUs + n) / 1000000)) := by
      simp only [passTo, if_pos hlt, ← hn, pass_reckons s n d hr hd]
      rfl
    exact ⟨hpass, by rw [hpass, (moveTo_tr _ _).1]⟩
  · rw [Mag.consume_some hseen hlt]
    refine ⟨rfl, Nat.mod_lt _ (by omega), fun hu => ?_, fun hm hle => ?_, fun hm hgt => ?_⟩
    · simp only [hu]
      rfl
    · refine ⟨n - (m.carry + (pos - m.consumedTo)) / 40, ?_, ?_⟩
      · simp only [hm]
        rfl
      · show n * 40 + (m.carry + (pos - m.consumedTo)) % 40 = _
        omega
    · simp only [hm, Remaining.take]
      congr 1
      omega

/-- Settles O44: an index pulse is the check against the reference, then the new reference. -/
theorem encoderHealthIsWatched : Obligations.EncoderHealthIsWatched := by
  unfold Obligations.EncoderHealthIsWatched
  refine fun s => ⟨fun he => ⟨happens_event (indexPulse_on he), happens_event ?_⟩, fun he ref href => ?_,
    fun hm => happens_event ?_, fun hm he e hpass => ?_⟩
  · simp only [noCount, he, Bool.not_true, Bool.and_false, Bool.false_eq_true, if_false]
  · cases ref with
    | none =>
      refine ⟨s.pulsed s, happens_event (indexPulse_first he href), rfl, rfl, rfl, rfl,
        fun _ => ⟨rfl, he, rfl, rfl⟩, fun r hr => (by cases hr), fun r hr => by cases hr⟩
    | some r =>
      refine ⟨s.pulsed (s.indexCheck r), happens_event (indexPulse_next he href), rfl, rfl, rfl, ?_,
        fun h => (by cases h), fun r' hr h1 h2 => ?_, fun r' hr hout => ?_⟩
      · show (s.indexCheck r).transport.position = _
        by_cases hin : s.onTime r
        · rw [indexCheck_match hin]
        · simp only [onTime] at hin
          rw [indexCheck_off (by omega), (mismatch_facts s).1.2.2.2]
      · cases hr
        have hin : s.onTime r := ⟨h2, h1⟩
        have htr := indexCheck_match hin
        have hmis : (s.indexCheck r).transport.mismatches = 0 := by rw [htr]
        have henc : (s.indexCheck r).transport.encoder = false := by rw [htr]; exact he
        have hmat : (s.indexCheck r).transport.matched = s.transport.motor := by rw [htr]
        refine ⟨hmis, henc, hmat, fun t hp hm hmt hlt => ?_, fun t hp hm hmt heq => ?_, fun hno => ?_⟩
        · show (s.indexCheck r).transport.speed = _
          rw [indexCheck_formed hin hp hm hmt]
          exact (formSpeed_facts _ _).2.1 (by omega)
        · show (s.indexCheck r).transport.speed = _
          rw [indexCheck_formed hin hp hm hmt]
          exact (formSpeed_facts _ _).2.2 (by omega)
        · show (s.indexCheck r).transport.speed = _
          rw [indexCheck_unformed hin hno]
          rfl
      · cases hr
        obtain ⟨⟨h1, h2, h3, _⟩, h4, h5⟩ := mismatch_facts s
        rw [indexCheck_off hout]
        exact ⟨h1, h2, h3, fun h => (h4 h).trans he, h5⟩
  · simp only [noCount, hm, Bool.false_and, Bool.false_eq_true, if_false]
  · refine ⟨e.encoderArises, happens_event ?_, ?_, ?_, ?_, ?_⟩
    · simp only [noCount, hm, he, Bool.not_false, Bool.and_self, if_true, hpass]
    · rw [encoderArises_facts, hpass, passTo_now]
    · rw [encoderArises_facts]
    · rw [encoderArises_facts]
    · rw [encoderArises_facts]

/-- Settles O45: while a probe runs dead reckoning stands still, so its failure moves the time base alone. -/
theorem clearProbeEndsPassedOrFailed : Obligations.ClearProbeEndsPassedOrFailed := by
  unfold Obligations.ClearProbeEndsPassedOrFailed
  refine fun s => ⟨fun hp => ⟨happens_event ?_, happens_event ?_⟩, fun q hq => ⟨fun hlate => happens_event ?_,
    fun hin => ?_, ?_⟩⟩
  · simp only [probeSuccess, hp]
  · simp only [probeFailure, hp]
  · have hno : ¬ s.ms ≤ q.start + 200 := Nat.not_le.2 hlate
    simp only [probeSuccess, hq, if_neg hno]
  · have hyes : s.ms ≤ q.start + 200 := hin
    obtain ⟨h1, h2, h3, h4, h5, h6, h7, _, h9⟩ := probePasses_facts s
    refine ⟨s.probePasses, happens_event ?_, h1, h2, h3, h4, h5, h6, h7, h9⟩
    simp only [probeSuccess, hq, if_pos hyes]
  · have hstill := passTo_still s (q.start + 200) (reckons_of_probe hq)
    obtain ⟨h1, h2, h3, h4, h5, h6⟩ := probeFails_facts { s with now := max s.now ((q.start + 200) * 1000) }
    rw [← hstill] at h1 h2 h3 h4 h5 h6
    refine ⟨(s.passTo (q.start + 200)).probeFails, happens_event ?_, h1, ?_, ?_, ?_, ?_, ?_⟩
    · simp only [probeFailure, hq]
    · rw [h2, hstill]
    · rw [h3, hstill]
    · rw [h4, hstill]
    · rw [hstill] at h5 ⊢
      exact h5
    · rw [h6, h2, hstill]

end Sys2Proof.Proofs
end


section
/-! Changes of presence (O42), the ends of a changeover and of the flush timer (O47). -/

set_option Elab.async false

namespace Sys2Proof.Machine

/-! ### Threading -/

/-- `t` has the magazine records, the lengths and the threaded slot of `s`. -/
structure SameRolls (s t : State) : Prop where
  m1 : t.transport.m1 = s.transport.m1
  m2 : t.transport.m2 = s.transport.m2
  threaded : t.transport.threaded = s.transport.threaded
  lowMm : t.transport.lowMm = s.transport.lowMm

namespace SameRolls

theorem of_transport {s t : State} (h : t.transport = s.transport) : SameRolls s t := by
  constructor <;> rw [h]

theorem of_tr {s t : State} (h : TrSame s.transport t.transport) : SameRolls s t := by
  constructor <;> rw [h]

theorem trans {s t u : State} (h : SameRolls s t) (k : SameRolls t u) : SameRolls s u :=
  ⟨k.m1.trans h.m1, k.m2.trans h.m2, k.threaded.trans h.threaded, k.lowMm.trans h.lowMm⟩

theorem mag {s t : State} (h : SameRolls s t) (m : MagSlot) : t.mag m = s.mag m := by
  cases m
  · exact h.m1
  · exact h.m2

theorem magState {s t : State} (h : SameRolls s t) (m : MagSlot) : t.magState m = s.magState m := by
  simp only [State.magState, h.mag m, h.threaded, h.lowMm]

end SameRolls

namespace State

theorem setLine_rolls (s : State) (l : LineState) : SameRolls s (s.setLine l) := .of_tr (setLine_tr s l)
theorem leaveWork_rolls (s : State) : SameRolls s s.leaveWork := .of_tr (leaveWork_tr s)
theorem addCause_rolls (s : State) (c : Cause) : SameRolls s (s.addCause c) := .of_tr (addCause_tr s c)

theorem setLine_work (s : State) (l : LineState) : (s.setLine l).engine.work = s.engine.work := by
  have hcopy := (copyCorrections_frame s).2.2
  simp only [setLine, syncMotor]
  split <;> split <;> (try split) <;> first | exact hcopy | rfl

theorem addCause_idle {s : State} (c : Cause) (h : s.engine.work = .idle) : (s.addCause c).engine.work = .idle := by
  simp only [addCause, causeOnLine]
  split
  · exact h
  · split
    · rw [setLine_work]; exact h
    · rw [setLine_work]; exact h
    · show (setLine _ _).engine.work = _
      rw [setLine_work]
      split
      · rfl
      · exact h
    · exact h

theorem addCause_attempt {s : State} (c : Cause) (h : s.due.attempt = true) :
    (s.addCause c).due.attempt = true := by
  simp only [addCause, causeOnLine]
  split
  · exact h
  · split
    · rw [setLine_due]; exact h
    · rw [setLine_due]; exact h
    · rfl
    · exact h

/-- An order that leaves ACTIVE or enters QUEUED is a scan event; no change of state is another event (R53). -/
theorem setOrderState_due (s : State) (i : Nat) (st : OrderState) : (s.setOrderState i st).due = { s.due with
    scan := s.due.scan || decide ((s.orderAt i).state = .active ∨ st = .queued) } := by
  simp only [setOrderState]
  cases (s.orderAt i).state <;> cases st <;> simp [leaveState, enterState]

theorem addHold_due {s : State} (i : Nat) (r : Hold) (h1 : s.due.scan = true) (h2 : s.due.attempt = true) :
    (s.addHold i r).due.scan = true ∧ (s.addHold i r).due.attempt = true := by
  simp only [addHold]
  split
  · exact ⟨h1, h2⟩
  · split
    · rw [setOrderState_due]
      exact ⟨by simp [h1], h2⟩
    · exact ⟨h1, h2⟩

/-! ### Insertion and removal -/

theorem presenceChange_same (s : State) (m : MagSlot) : s.presenceChange m (s.mag m).present = s := by
  simp only [presenceChange]
  cases (s.mag m).present <;> rfl

theorem presenceChange_comes {s : State} {m : MagSlot} (h : (s.mag m).present = true) :
    s.presenceChange m false = s.insertion m := by
  simp only [presenceChange, h, Bool.not_false, Bool.and_self, if_true]

theorem presenceChange_goes {s : State} {m : MagSlot} (h : (s.mag m).present = false) :
    s.presenceChange m true = if s.transport.threaded = some m then s.webBreak m else s.removal m := by
  simp only [presenceChange, h, Bool.not_true, Bool.not_false, Bool.false_eq_true, if_false,
    Bool.and_self, if_true, beq_iff_eq]

theorem wake_off {s : State} (h : s.ctl.line ≠ .standby) : s.wake = s := by
  simp only [wake, beq_iff_eq, if_neg h]

theorem insertion_facts (s : State) (m : MagSlot) : (s.insertion m).mag m = (s.mag m).insert ∧
    (s.ctl.line = .standby → s.ctl.wakeInsertion = true → (s.insertion m).ctl =
      { s.ctl with line := .waking, wakeTimer := some (s.now / 1000) }) ∧
    (s.ctl.line ≠ .standby ∨ s.ctl.wakeInsertion = false → s.insertion m = s.modMag Mag.insert m) := by
  have hctl : (s.modMag Mag.insert m).ctl = s.ctl := (modMag_rest s _ m).2.2.2.1
  have hnow : (s.modMag Mag.insert m).now = s.now := by cases m <;> rfl
  have hins : s.insertion m =
      if s.ctl.wakeInsertion = true then (s.modMag Mag.insert m).wake else s.modMag Mag.insert m := by
    simp only [insertion, hctl]
  rw [hins]
  by_cases hw : s.ctl.wakeInsertion = true
  · rw [if_pos hw]
    by_cases hl : s.ctl.line = .standby
    · have hl' : (s.modMag Mag.insert m).ctl.line = .standby := by rw [hctl, hl]
      refine ⟨?_, fun _ _ => ?_, fun h => ?_⟩
      · rw [wake_standby hl', (setLine_rolls _ _).mag m]
        exact mag_modMag s _ m
      · rw [(wake_facts hl').1, hctl, hnow]
      · exact absurd hl (h.resolve_right (by simp [hw]))
    · have hl' : (s.modMag Mag.insert m).ctl.line ≠ .standby := by rw [hctl]; exact hl
      rw [wake_off hl']
      exact ⟨mag_modMag s _ m, fun h => absurd h hl, fun _ => rfl⟩
  · rw [if_neg hw]
    exact ⟨mag_modMag s _ m, fun _ h => absurd h hw, fun _ => rfl⟩

theorem removal_other {s : State} {m : MagSlot} (h : s.transport.changeover.map (·.incoming) ≠ some m) :
    s.removal m = s.modMag Mag.remove m := by
  have hch := (modMag_rest s Mag.remove m).2.2.2.2.2.2
  simp only [removal, hch, beq_iff_eq, if_neg h]

/-- The line once the incoming magazine of a changeover is lost, before PAPER is taken (R126). -/
def incomingLost (s : State) (m : MagSlot) : State :=
  ({ s.modMag Mag.remove m with transport.changeover := none } : State).clearRequest.leaveWork

theorem incomingLost_current (s : State) (m : MagSlot) : (s.incomingLost m).current = s.current := by
  simp only [current, incomingLost]
  rw [leaveWork_frame]
  cases m <;> rfl

theorem removal_incoming {s : State} {m : MagSlot} (h : s.transport.changeover.map (·.incoming) = some m) :
    (s.current = none → s.removal m = s.incomingLost m) ∧
    ∀ i, s.current = some i → s.removal m = (s.incomingLost m).addHold i .paper := by
  have hch := (modMag_rest s Mag.remove m).2.2.2.2.2.2
  have hlose : s.removal m = (s.modMag Mag.remove m).loseIncoming := by
    simp only [removal, hch, beq_iff_eq, if_pos h]
  have hcur := incomingLost_current s m
  simp only [incomingLost] at hcur
  refine ⟨fun hnone => ?_, fun i hi => ?_⟩
  · rw [hnone] at hcur
    simp only [hlose, loseIncoming, hcur]
    rfl
  · rw [hi] at hcur
    simp only [hlose, loseIncoming, hcur]
    rfl

theorem incomingLost_facts (s : State) (m : MagSlot) : (s.incomingLost m).mag m = (s.mag m).remove ∧
    (s.incomingLost m).transport.changeover = none ∧
    (s.incomingLost m).transport.threaded = s.transport.threaded ∧ (s.incomingLost m).sched.request = none ∧
    (s.incomingLost m).ctl =
      { s.ctl with line := if s.ctl.faults = FaultSet.none then .stopped else .fault } ∧
    (s.incomingLost m).cutter = s.cutter ∧ (s.incomingLost m).due.scan = true ∧
    (s.incomingLost m).due.attempt = true ∧ (s.incomingLost m).book = s.book ∧
    (s.incomingLost m).ports = s.ports := by
  have hrolls := leaveWork_rolls ({ s.modMag Mag.remove m with transport.changeover := none } : State).clearRequest
  have htr := leaveWork_tr ({ s.modMag Mag.remove m with transport.changeover := none } : State).clearRequest
  have hframe := leaveWork_frame ({ s.modMag Mag.remove m with transport.changeover := none } : State).clearRequest
  obtain ⟨_, hcutter, hbook, hctl, hthr, _, _⟩ := modMag_rest s Mag.remove m
  have hports : (s.modMag Mag.remove m).ports = s.ports := by cases m <;> rfl
  refine ⟨(hrolls.mag m).trans ?_, ?_, hrolls.threaded.trans hthr, ?_, ?_, ?_, rfl, rfl, ?_, ?_⟩
  · cases m <;> rfl
  · rw [incomingLost, htr]; rfl
  · rw [incomingLost, hframe]; rfl
  · rw [incomingLost, hframe]
    simp only [noFault_iff, clearRequest, hctl]
  · rw [incomingLost, hframe]
    exact hcutter
  · rw [incomingLost, hframe]
    exact hbook
  · rw [incomingLost, hframe]
    exact hports

/-! ### The web break -/

theorem breakProbe_frame (s : State) : SameRolls s s.breakProbe ∧
    s.breakProbe = { s with transport := s.breakProbe.transport, ctl := s.breakProbe.ctl } := by
  simp only [breakProbe]
  split
  · obtain ⟨m, sp, lc, pu, mt, nm, hframe⟩ := syncMotor_frame
      ({ s with transport.probe := none, ctl.lastProbe := .failed } : State).rebase
    rw [probeFails, hframe]
    exact ⟨⟨rfl, rfl, rfl, rfl⟩, rfl⟩
  · exact ⟨.of_transport rfl, rfl⟩

theorem cutOffEngine_facts (s : State) : s.cutOffEngine.transport = s.transport ∧
    s.cutOffEngine.engine.work = .idle ∧ (s.cutOffEngine.cutter.web = [] → s.cutter.web = []) := by
  cases hw : s.engine.work with
  | idle =>
    simp only [cutOffEngine, hw]
    exact ⟨trivial, trivial, id⟩
  | closing a n =>
    simp only [cutOffEngine, hw]
    exact ⟨trivial, trivial, id⟩
  | frame c =>
    obtain ⟨hidle, _, hcutter⟩ := abortWaste_facts ((frame?_iff s c).2 hw)
    simp only [cutOffEngine, hw]
    refine ⟨(abortFrame_facts s).1, hidle, fun h => ?_⟩
    rw [hcutter] at h
    have hlen := congrArg List.length h
    rw [modAt_length] at hlen
    exact List.eq_nil_of_length_eq_zero hlen

theorem dropWeb_cutter (s : State) : s.dropWeb.cutter = s.cutter.drop := by
  have h := foldl_spoil_frame (s.cutter.web.filterMap fun x => x.order) { s with cutter := s.cutter.drop }
  simp only [dropWeb]
  split
  · rw [h]
  · show State.cutter (List.foldl _ _ _) = _
    rw [h]

theorem dropWeb_attempt {s : State} (h : s.cutter.web ≠ []) : s.dropWeb.due.attempt = true := by
  have hne : ¬ s.cutter.web.isEmpty = true := by simpa using h
  simp only [dropWeb, if_neg hne]
  rfl

/-- What the loss of the web leaves, whatever the line was doing (R124). -/
structure WebLost (s : State) (m : MagSlot) (t : State) : Prop where
  mag : t.mag m = (s.mag m).remove
  threaded : t.transport.threaded = none
  cutter : t.cutter.web = [] ∧ t.cutter.lastCut = none ∧ t.cutter.diverter = .chute
  work : t.engine.work = .idle
  faults : t.ctl.faults.paperBreak = true
  book : t.book = (s.lostPrints.foldl spoil s).book
  attempt : s.cutter.web ≠ [] → t.due.attempt = true

/-- The state once the web is lost and PAPER_BREAK is raised (R124). -/
def brokenWeb (s : State) (m : MagSlot) : State :=
  ({ s.modMag Mag.remove m with transport.threaded := none } : State).breakProbe.cutOffEngine.dropWeb.addCause
    .paperBreak

theorem lostPrints_congr {s t : State} (h1 : t.engine = s.engine) (h2 : t.cutter = s.cutter) :
    t.lostPrints = s.lostPrints := by
  simp only [lostPrints, frame?, h1, h2]

theorem brokenWeb_lost (s : State) (m : MagSlot) : WebLost s m (s.brokenWeb m) := by
  obtain ⟨hengine, hcutter, hbook, _, _, _, _⟩ := modMag_rest s Mag.remove m
  obtain ⟨hrolls, hprobe⟩ := breakProbe_frame { s.modMag Mag.remove m with transport.threaded := none }
  have hb : ({ s.modMag Mag.remove m with transport.threaded := none } : State).breakProbe.cutter = s.cutter := by
    rw [hprobe]; exact hcutter
  have he : ({ s.modMag Mag.remove m with transport.threaded := none } : State).breakProbe.engine = s.engine := by
    rw [hprobe]; exact hengine
  have hk : ({ s.modMag Mag.remove m with transport.threaded := none } : State).breakProbe.book = s.book := by
    rw [hprobe]; exact hbook
  rw [brokenWeb]
  generalize ({ s.modMag Mag.remove m with transport.threaded := none } : State).breakProbe = b at *
  obtain ⟨htr, hidle, hempty⟩ := cutOffEngine_facts b
  have hall : SameRolls { s.modMag Mag.remove m with transport.threaded := none }
      (b.cutOffEngine.dropWeb.addCause .paperBreak) :=
    ((hrolls.trans (.of_transport htr)).trans (.of_transport (dropWeb_transport _))).trans (addCause_rolls _ _)
  refine ⟨(hall.mag m).trans ?_, hall.threaded, ?_, addCause_idle _ ?_, ?_, ?_, fun h => addCause_attempt _ ?_⟩
  · cases m <;> rfl
  · rw [addCause_cutter, dropWeb_cutter]
    exact ⟨rfl, rfl, rfl⟩
  · rw [dropWeb_engine]
    exact hidle
  · rw [addCause_faults]
    rfl
  · rw [addCause_book, loseWeb_book, lostPrints_congr he hb]
    exact spoils_book_congr _ hk
  · exact dropWeb_attempt fun h0 => h (hb ▸ hempty h0)

theorem webBreak_eq (s : State) (m : MagSlot) : s.webBreak m =
    if s.ctl.line = .changeover then
      (({ s.brokenWeb m with transport.changeover := none } : State).clearRequest).setLine .fault
    else if s.ctl.line = .flushing then (s.brokenWeb m).clearRequest.dueScan.dueAttempt
    else s.brokenWeb m := by
  simp only [webBreak]
  cases s.ctl.line <;> rfl

theorem webBreak_lost (s : State) (m : MagSlot) : WebLost s m (s.webBreak m) := by
  obtain ⟨hmag, hthr, hcutter, hwork, hfaults, hbook, hatt⟩ := brokenWeb_lost s m
  rw [webBreak_eq]
  split
  · have hrolls := setLine_rolls ({ s.brokenWeb m with transport.changeover := none } : State).clearRequest .fault
    have hframe := setLine_frame ({ s.brokenWeb m with transport.changeover := none } : State).clearRequest .fault
    refine ⟨?_, ?_, ?_, ?_, ?_, ?_, fun h => ?_⟩
    · rw [hrolls.mag m, ← hmag]
      cases m <;> rfl
    · rw [hrolls.threaded]
      exact hthr
    · rw [hframe]
      exact hcutter
    · rw [setLine_work]
      exact hwork
    · rw [setLine_ctl]
      exact hfaults
    · rw [hframe]
      exact hbook
    · rw [setLine_due]
      exact hatt h
  · split
    · exact ⟨hmag, hthr, hcutter, hwork, hfaults, hbook, fun _ => rfl⟩
    · exact ⟨hmag, hthr, hcutter, hwork, hfaults, hbook, hatt⟩

/-! ### Release events -/

theorem enters_ready {b : MagState} (h : b = .absent ∨ b = .unusable) : enters b .ready = true := by
  rcases h with rfl | rfl <;> rfl

theorem enters_same (b : MagState) : enters b b = false := by cases b <;> rfl

/-- A slot that comes READY from ABSENT or UNUSABLE, the other unchanged: the only release event, one that waits
while the line is at work. -/
theorem paperEvents_insertion {b s : State} {m n : MagSlot} (hne : m ≠ n)
    (hb : b.magState m = .absent ∨ b.magState m = .unusable) (hs : s.magState m = .ready)
    (hn : s.magState n = b.magState n) : paperEvents b s =
      if s.atWork then s.releasePaper.defer else s.releasePaper.dueAttempt := by
  have hm : slotEvent b s m = true := by rw [slotEvent, hs, enters_ready hb]
  have hno : slotEvent b s n = false := by rw [slotEvent, hn, enters_same]
  have hw : slotWaits b s m = s.atWork := by
    rcases hb with e | e <;> simp only [slotWaits, e, Bool.and_true]
  cases hwork : s.atWork <;> rw [hwork] at hw <;> cases m <;> cases n <;>
    simp_all [paperEvents]

/-! ### The end of a changeover -/

theorem unthreadEmpty_mag (s : State) (m : MagSlot) : s.unthreadEmpty.mag m = s.mag m := by
  rw [unthreadEmpty_facts]
  cases m <;> rfl

theorem unthreadEmpty_threaded (s : State) :
    s.unthreadEmpty.transport.threaded = s.transport.threaded ∨ s.unthreadEmpty.transport.threaded = none := by
  simp only [unthreadEmpty]
  split
  · exact .inl rfl
  · split
    · exact .inr rfl
    · exact .inl rfl

theorem unthreadEmpty_kept {s : State} {m : MagSlot} (h : s.transport.threaded = some m)
    (hseen : (s.mag m).endSeen = false) : s.unthreadEmpty = s := by
  have hfull : ¬ (s.magState m == .empty) = true := by
    simp only [magState, hseen, Bool.false_and, Bool.false_eq_true, if_false, beq_iff_eq]
    repeat' split
    all_goals simp
  simp only [unthreadEmpty, h, if_neg hfull]

/-- The incoming slot threaded at the position, 40 mm of its roll used (R125 steps 1 and 2). -/
def threadTo (s : State) (m : MagSlot) : State :=
  ({ s with transport.threaded := some m } : State).modMag
    (fun g => { g with consumedTo := s.transport.position, remaining := g.remaining.take 40 }) m

theorem thread_eq (s : State) (m : MagSlot) : s.thread m =
    (if (s.mag m).endInput && !(s.mag m).endSeen then (s.threadTo m).takePaperEnd m else s.threadTo m).unthreadEmpty := by
  cases m <;> rfl

theorem threadTo_facts (s : State) (m : MagSlot) : (s.threadTo m).mag m =
      { s.mag m with consumedTo := s.transport.position, remaining := (s.mag m).remaining.take 40 } ∧
    (s.threadTo m).transport.threaded = some m ∧
    (s.threadTo m).transport.changeover = s.transport.changeover ∧
    (s.threadTo m).transport.endLead = s.transport.endLead ∧
    s.threadTo m = { s with transport := (s.threadTo m).transport } := by
  cases m <;> exact ⟨rfl, rfl, rfl, rfl, rfl⟩

/-- What the threading of the incoming slot leaves (R123, R125). -/
theorem thread_facts (s : State) (m : MagSlot) :
    ((s.mag m).endInput = false ∨ (s.mag m).endSeen = true → (s.thread m).mag m =
      { s.mag m with consumedTo := s.transport.position, remaining := (s.mag m).remaining.take 40 }) ∧
    ((s.mag m).endInput = true → (s.mag m).endSeen = false → (s.thread m).mag m =
      { s.mag m with consumedTo := s.transport.position, remaining := .mm s.transport.endLead
                     endSeen := true, carry := 0 }) ∧
    ((s.mag m).endInput = false → (s.mag m).endSeen = false → (s.thread m).transport.threaded = some m) ∧
    ((s.thread m).transport.threaded = some m ∨ (s.thread m).transport.threaded = none) ∧
    (s.thread m).transport.changeover = s.transport.changeover ∧ (s.thread m).ctl = s.ctl ∧
    (s.thread m).now = s.now ∧ (s.thread m).sched.request = s.sched.request ∧
    (s.writing = false → (s.thread m).book = s.book) := by
  obtain ⟨hmag, hthr, hch, hlead, hframe⟩ := threadTo_facts s m
  have hrest : ∀ t : State, t.unthreadEmpty.transport.changeover = t.transport.changeover ∧
      t.unthreadEmpty.ctl = t.ctl ∧ t.unthreadEmpty.now = t.now ∧
      t.unthreadEmpty.sched.request = t.sched.request ∧ t.unthreadEmpty.book = t.book := fun t => by
    rw [unthreadEmpty_facts]
    exact ⟨rfl, rfl, rfl, rfl, rfl⟩
  rw [thread_eq]
  by_cases hend : (s.mag m).endInput = true ∧ (s.mag m).endSeen = false
  · obtain ⟨hin, hseen⟩ := hend
    have hcond : ((s.mag m).endInput && !(s.mag m).endSeen) = true := by simp [hin, hseen]
    rw [if_pos hcond]
    obtain ⟨htr, hctl, hnow, hreq⟩ := takePaperEnd_facts (s.threadTo m) m
    obtain ⟨r1, r2, r3, r4, r5⟩ := hrest ((s.threadTo m).takePaperEnd m)
    obtain ⟨_, _, hbook', _, hthr', _, hch'⟩ := modMag_rest (s.threadTo m)
      (fun g => { g with remaining := .mm (s.threadTo m).transport.endLead, endSeen := true, carry := 0 }) m
    refine ⟨fun h => ?_, fun _ _ => ?_, fun h => ?_, ?_, ?_, ?_, ?_, ?_, fun hw => ?_⟩
    · rcases h with e | e
      · rw [hin] at e; cases e
      · rw [hseen] at e; cases e
    · rw [unthreadEmpty_mag, mag_congr htr m, mag_modMag, hmag, hlead]
    · rw [hin] at h; cases h
    · rw [← hthr]
      refine (unthreadEmpty_threaded _).imp_left fun h => h.trans ?_
      rw [htr, hthr']
    · rw [r1, htr, hch', hch]
    · rw [r2, hctl, hframe]
    · rw [r3, hnow, hframe]
    · rw [r4, hreq, hframe]
    · have hidle : (s.threadTo m).frame? = none := frame?_none_of (by rw [hframe]; exact hw)
      rw [r5, takePaperEnd_spares m fun c hc => (by rw [hidle] at hc; cases hc), hbook', hframe]
  · have hcond : ¬((s.mag m).endInput && !(s.mag m).endSeen) = true := by
      simpa using hend
    rw [if_neg hcond]
    obtain ⟨r1, r2, r3, r4, r5⟩ := hrest (s.threadTo m)
    refine ⟨fun _ => ?_, fun h1 h2 => absurd ⟨h1, h2⟩ hend, fun _ hseen => ?_, ?_, ?_, ?_, ?_, ?_, fun _ => ?_⟩
    · rw [unthreadEmpty_mag, hmag]
    · rw [unthreadEmpty_kept hthr (by rw [hmag]; exact hseen), hthr]
    · rw [← hthr]
      exact unthreadEmpty_threaded _
    · rw [r1, hch]
    · rw [r2, hframe]
    · rw [r3, hframe]
    · rw [r4, hframe]
    · rw [r5, hframe]

theorem giveUp_rolls (s : State) (o : Option MagSlot) : SameRolls s (s.giveUp o) :=
  .of_transport (by rw [giveUp_frame s o])

theorem giveUp_some (s : State) (n : MagSlot) : s.giveUp (some n) =
    if s.magState n = .ready ∨ s.magState n = .low then s.releasePaper else s := by
  simp only [giveUp, Option.map_some]
  cases s.magState n <;> simp

/-- What the end of a changeover leaves of the state `t` in which the incoming slot is threaded. -/
theorem changeoverEnd_facts (t : State) (out : Option MagSlot) : SameRolls t (t.giveUp out).leaveWork ∧
    (t.giveUp out).leaveWork.transport.changeover = t.transport.changeover ∧
    (t.giveUp out).leaveWork.now = t.now ∧ (t.giveUp out).leaveWork.sched.request = t.sched.request ∧
    (t.giveUp out).leaveWork.ctl.line = (if t.ctl.faults = FaultSet.none then .stopped else .fault) ∧
    (t.giveUp out).leaveWork.due.scan = true ∧ (t.giveUp out).leaveWork.due.attempt = true ∧
    (t.giveUp out).leaveWork.book = (t.giveUp out).book := by
  have hgive := giveUp_frame t out
  have htr := leaveWork_tr (t.giveUp out)
  have hframe := leaveWork_frame (t.giveUp out)
  have hctl : (t.giveUp out).ctl = t.ctl := by rw [hgive]
  refine ⟨(giveUp_rolls t out).trans (leaveWork_rolls _), ?_, ?_, ?_, ?_, rfl, rfl, ?_⟩
  · rw [htr]
    show (t.giveUp out).transport.changeover = _
    rw [hgive]
  · rw [hframe]
    show (t.giveUp out).now = _
    rw [hgive]
  · rw [hframe]
    show (t.giveUp out).sched.request = _
    rw [hgive]
  · rw [hframe]
    simp only [noFault_iff, hctl]
  · rw [hframe]

theorem startFlush_facts (s : State) : s.startFlush.now = s.now ∧
    s.startFlush.ctl = { s.ctl with line := .flushing } ∧
    (∀ x, s.cutter.web.getLast? = some x → x.kind = .closing → s.startFlush.cutter = s.cutter) ∧
    (∀ x, s.cutter.web.getLast? = some x → x.kind ≠ .closing → s.startFlush.cutter = { s.cutter with
      web := s.cutter.web ++ [s.cutter.newRecord .closing none
        (max s.transport.position (x.start + x.span)) 48 0] }) := by
  have hframe := setLine_frame s .flushing
  have hcutter : (s.setLine .flushing).cutter = s.cutter := by rw [hframe]
  have hpos : (s.setLine .flushing).transport.position = s.transport.position := by rw [setLine_tr s .flushing]
  have hctl := setLine_ctl s .flushing
  have hnow := setLine_now s .flushing
  simp only [startFlush, hcutter]
  split
  · next hc =>
    refine ⟨hnow, hctl, fun _ _ _ => hcutter, fun x hx hk => ?_⟩
    rw [hx] at hc
    exact absurd (by simpa using hc) hk
  · next hc =>
    rw [writeLines_tr]
    refine ⟨hnow, hctl, fun x hx hk => ?_, fun x hx _ => ?_⟩
    · rw [hx] at hc
      exact absurd (by simpa using hk) hc
    · simp only [Cutter.nextStart, hx, hpos]
      rfl

end State

end Sys2Proof.Machine

namespace Sys2Proof.Proofs

open Sys2Proof.Machine Sys2Proof.Machine.State

/-- Settles O42: an insertion, a removal or a web break; an insertion's release waits while the line is at work. -/
theorem presenceChangesInsertRemoveOrBreak : Obligations.PresenceChangesInsertRemoveOrBreak := by
  unfold Obligations.PresenceChangesInsertRemoveOrBreak
  refine ⟨fun s m was => ⟨fun h => h ▸ presenceChange_same s m, fun h hwas => ?_, fun h hwas hthr => ?_,
    fun h hwas hthr => ?_⟩, fun b s m n hne hb hs hn => ?_⟩
  · rw [hwas, presenceChange_comes h]
    exact insertion_facts s m
  · rw [hwas, presenceChange_goes h, if_neg hthr]
    by_cases hin : s.transport.changeover.map (·.incoming) = some m
    · obtain ⟨lmag, lch, lthr, lreq, lctl, lcutter, lscan, latt, lbook, lports⟩ := incomingLost_facts s m
      have hat : ∀ j, (s.incomingLost m).orderAt j = s.orderAt j := fun j => orderAt_congr (by rw [lbook]) j
      have hremove := removal_incoming hin
      cases hcur : s.current with
      | none =>
        rw [hremove.1 hcur]
        refine ⟨lmag, fun h => absurd hin h, fun c t _ _ ht => ?_⟩
        rw [ht]
        exact ⟨lch, lthr, lreq, lctl, lcutter, lscan, latt, by rw [lbook], fun i hi => (by cases hi),
          fun j _ => hat j⟩
      | some k =>
        rw [hremove.2 k hcur]
        have hframe := addHold_frame (s.incomingLost m) k .paper
        have htr : ((s.incomingLost m).addHold k .paper).transport = (s.incomingLost m).transport := by rw [hframe]
        obtain ⟨hscan, hatt⟩ := addHold_due k .paper lscan latt
        have hactive := current_some hcur
        have hacts : (s.incomingLost m).holdActs k .paper = true := by
          simp only [holdActs, hat, hactive]
          simp
        have hlive : ((s.incomingLost m).orderAt k).live = true := by
          rw [hat, Order.live, hactive]
          rfl
        have hqueue : ((s.incomingLost m).addHold k .paper).book.queue = s.book.queue := by
          cases hp : ((s.incomingLost m).orderAt k).holds.has .paper with
          | true => rw [addHold_has hp, lbook]
          | false => rw [(addHold_held hlive hp hacts).2.2.1, hat, hactive, lbook]; rfl
        refine ⟨(mag_congr htr m).trans lmag, fun h => absurd hin h, fun c t _ _ ht => ?_⟩
        rw [ht, htr]
        refine ⟨lch, lthr, ?_, ?_, ?_, hscan, hatt, hqueue, fun i hi hp => ?_, fun j hj => ?_⟩
        · rw [hframe]; exact lreq
        · rw [hframe]; exact lctl
        · rw [hframe]; exact lcutter
        · cases hi
          have hnew : ((s.incomingLost m).orderAt k).holds.has .paper = false := by rw [hat]; exact hp
          obtain ⟨h1, _, _, h4, _⟩ := addHold_held hlive hnew hacts
          refine ⟨by rw [h1, hat], fun p => ?_⟩
          rw [h4, port_flags_congr lports]
        · rw [addHold_other _ _ (fun e => hj (by rw [e]))]
          exact hat j
    · rw [removal_other hin]
      refine ⟨mag_modMag s _ m, fun _ => rfl, fun c t hc hm => ?_⟩
      rw [hc, Option.map_some, hm] at hin
      exact absurd rfl hin
  · rw [hwas, presenceChange_goes h, if_pos hthr]
    obtain ⟨lmag, lthr, ⟨lweb, lcut, ldiv⟩, lwork, lfaults, lbook, latt⟩ := webBreak_lost s m
    refine ⟨lmag, lthr, lweb, lcut, lwork, lfaults, ldiv, lbook, fun h => ?_⟩
    by_cases hl : s.ctl.line = .flushing
    · rw [webBreak_eq, if_neg (by simp [hl]), if_pos hl]
      rfl
    · exact latt (h.resolve_right hl)
  · rw [paperEvents_insertion hne hb hs hn]
    refine ⟨fun hwork => ?_, fun h1 h2 => ?_⟩
    · rw [if_pos ((atWork_iff s).2 hwork)]
      rfl
    · rw [if_neg]
      · rfl
      · rw [atWork_iff]
        exact fun h => h.elim h1 h2

/-- Settles O47: the changeover threads the incoming slot and gives the outgoing one up; the timer starts a flush. -/
theorem changeoverAndFlushTimerEnd : Obligations.ChangeoverAndFlushTimerEnd := by
  unfold Obligations.ChangeoverAndFlushTimerEnd
  refine fun s => ⟨fun hnone => happens_event ?_, fun c m e g hc hm he hg => ?_, fun hnone => happens_event ?_,
    fun t e ht he => ?_⟩
  · simp only [changeoverEnds, hnone]
  · have hnow : e.now = max s.now ((c.start + 8000) * 1000) := by rw [he, passTo_now]
    have hends : s.changeoverEnds = ((({ e with transport.changeover := none } : State).clearRequest.thread m).giveUp
        (e.transport.threaded.filter (· != m))).leaveWork := by
      simp only [changeoverEnds, hc, ← he, hm]
    have hmag : ({ e with transport.changeover := none } : State).clearRequest.mag m = g := by
      rw [← hg]
      cases m <;> rfl
    obtain ⟨h1, h2, h3, h4, h5, h6, h7, h8, h9⟩ :=
      thread_facts ({ e with transport.changeover := none } : State).clearRequest m
    rw [hmag] at h1 h2 h3
    generalize ({ e with transport.changeover := none } : State).clearRequest.thread m = t at *
    obtain ⟨urolls, uch, unow, ureq, uline, uscan, uatt, ubook⟩ :=
      changeoverEnd_facts t (e.transport.threaded.filter (· != m))
    refine ⟨_, happens_event hends, ?_, uch.trans h5, ureq.trans h8, ?_, fun h => (urolls.mag m).trans (h1 h),
      fun ha hb => (urolls.mag m).trans (h2 ha hb), fun ha hb => urolls.threaded.trans (h3 ha hb), uscan, uatt,
      fun n hn hne hw => ⟨?_, ?_⟩, fun hn hw => ?_⟩
    · rw [unow, h7]
      exact hnow
    · rw [uline, h6]
      rfl
    · rw [urolls.threaded]
      rcases h4 with k | k
      · rw [k]
        exact fun x => hne (Option.some.inj x).symm
      · rw [k]
        simp
    · rw [ubook, urolls.magState n, hn, Option.filter_some, if_pos (by simpa using hne), giveUp_some]
      have hbook : t.book = e.book := h9 hw
      split
      · exact releasePaper_book_congr hbook
      · exact hbook
    · have hout : e.transport.threaded.filter (· != m) = none := by
        rcases hn with k | k
        · rw [k]; rfl
        · rw [k]; simp
      rw [ubook, hout]
      exact h9 hw
  · simp only [flushExpires, hnone]
  · obtain ⟨h1, h2, h3, h4⟩ := startFlush_facts e
    refine ⟨e.startFlush, happens_event ?_, ?_, h2, h3, h4⟩
    · simp only [flushExpires, ht, he]
    · rw [h1, he, passTo_now]

end Sys2Proof.Proofs
end


section
/-! Jams (O52), and the print that a spoil or a frame start moves (O53). -/

set_option Elab.async false

namespace Sys2Proof.Machine

theorem Order.countsAt_congr {o r : Order} (h1 : r.items = o.items) (h2 : r.index = o.index) (k : Nat) :
    r.countsAt k = o.countsAt k := by
  simp only [countsAt, h1, h2]

namespace State

/-! ### The sheet list while time passes -/

theorem completePiece_appends (s : State) :
    ∃ more, s.completePiece.monitor.sheets = s.monitor.sheets ++ more := by
  cases hx : s.cutter.openPiece with
  | none =>
    refine ⟨[], ?_⟩
    rw [(completePiece_chute fun x h => by rw [hx] at h; cases h).2, List.append_nil]
  | some x => cases hk : x.kind.sheet with
    | some k => exact ⟨_, (completePiece_sheet hx hk).2⟩
    | none =>
      refine ⟨[], ?_⟩
      rw [(completePiece_chute fun y h => by rw [hx] at h; cases h; exact hk).2, List.append_nil]

theorem tryCut_appends (s : State) : ∃ more, s.tryCut.monitor.sheets = s.monitor.sheets ++ more := by
  simp only [tryCut]
  split
  · split
    · rw [(fireCut_units s).2]
      exact completePiece_appends s.swung
    · rw [addCause_monitor]
      exact ⟨[], (List.append_nil _).symm⟩
  · exact ⟨[], (List.append_nil _).symm⟩

theorem moveTo_appends (s : State) (p : Nat) : ∃ more, (s.moveTo p).monitor.sheets = s.monitor.sheets ++ more := by
  have h : ({ s with transport.position := p } : State).consumeRoll.checkIndex.writeLines.judgeMarks.monitor =
      s.monitor := by
    show State.monitor (writeLines _) = _
    rw [writeLines_tr, checkIndex_frame, (consumeRoll_tr _).1]
  rw [← h]
  exact tryCut_appends _

/-- The passing of time only appends sheets (R139). -/
theorem passTo_appends (s : State) (t : Nat) : ∃ more, (s.passTo t).monitor.sheets = s.monitor.sheets ++ more := by
  have helapse : ∀ us, (s.elapse us).monitor = s.monitor := fun us => by
    simp only [elapse]
    split <;> rfl
  simp only [passTo]
  split
  · simp only [pass]
    split
    · split
      · next d _ =>
        rw [← helapse (t * 1000 - s.now)]
        exact moveTo_appends _ _
      · rw [helapse]
        exact ⟨[], (List.append_nil _).symm⟩
    · rw [helapse]
      exact ⟨[], (List.append_nil _).symm⟩
  · exact ⟨[], (List.append_nil _).symm⟩

/-! ### Jams -/

theorem loseHead_book {s : State} {x : Sheet} {rest : List Sheet} (h : s.monitor.sheets = x :: rest) :
    s.loseHead.book = (s.spoil? x.order).book := by
  simp only [loseHead, h]
  exact spoil?_book_congr (s := s) (t := { s with monitor.sheets := rest }) rfl x.order

/-- The watchdog's expiry: the head lost, the processor stopped, JAM (R150). -/
theorem jam_facts {s : State} {x : Sheet} {rest : List Sheet} (h : s.monitor.sheets = x :: rest) :
    s.jam.now = s.now ∧ s.jam.monitor.sheets = rest ∧ s.jam.monitor.stop = some (s.now / 1000) ∧
      s.jam.ctl.faults = { s.ctl.faults with jam := true } ∧ s.jam.book = (s.spoil? x.order).book := by
  obtain ⟨hmon, hctl, hnow⟩ := loseHeads_facts 1 s
  have hmon : s.loseHead.monitor = { s.monitor with sheets := s.monitor.sheets.drop 1 } := hmon
  have hctl : s.loseHead.ctl = s.ctl := hctl
  have hnow : s.loseHead.now = s.now := hnow
  refine ⟨?_, ?_, ?_, ?_, ?_⟩
  · rw [jam, addCause_now]
    exact hnow
  · rw [jam, addCause_monitor]
    show s.loseHead.monitor.sheets = rest
    rw [hmon, h]
    rfl
  · rw [jam, addCause_monitor]
    rfl
  · rw [jam, addCause_faults]
    show s.loseHead.ctl.faults.put true .jam = _
    rw [hctl]
    rfl
  · rw [jam, addCause_book]
    exact loseHead_book h

theorem watchdog_armed {m : Monitor} {x : Sheet} {rest : List Sheet} (h : m.stop = none)
    (hx : m.sheets = x :: rest) : m.watchdog = .armed (x.due + m.tol * 1000) := by
  simp only [Monitor.watchdog, h, hx, Option.isSome_none, Bool.false_eq_true, if_false]

theorem watchdog_off {m : Monitor} (h : m.stop ≠ none ∨ m.sheets = []) (t : Nat) : m.watchdog ≠ .armed t := by
  simp only [Monitor.watchdog]
  split
  · simp
  · next hs =>
    rcases h with e | e
    · exact absurd (by simpa using hs) e
    · simp [e]

theorem checkWatchdog_late {s : State} {x : Sheet} {rest : List Sheet} (h : s.monitor.stop = none)
    (hx : s.monitor.sheets = x :: rest) (hlate : x.due + s.monitor.tol * 1000 ≤ s.now / 1000) :
    s.checkWatchdog = s.jam := by
  simp only [checkWatchdog, watchdog_armed h hx]
  exact if_pos hlate

theorem checkWatchdog_early {s : State} (h : s.monitor.stop = none)
    (hx : ∀ x, s.monitor.sheets.head? = some x → s.now / 1000 < x.due + s.monitor.tol * 1000) :
    s.checkWatchdog = s := by
  cases hs : s.monitor.sheets with
  | nil => simp only [checkWatchdog, Monitor.watchdog, h, hs, Option.isSome_none, Bool.false_eq_true, if_false]
  | cons x rest =>
    rw [hs] at hx
    simp only [checkWatchdog, watchdog_armed h hs]
    exact if_neg (Nat.not_le.2 (hx x rfl))

/-- The sheets lost, the rest put off, the processor released (R151). -/
def unjammed (s : State) (n d : Nat) : State := { (s.loseHeads n).shiftDue d with monitor.stop := none }

/-- The state of a JAM_CLEAR before the watchdog is looked at (R151). -/
def jamCleared (s : State) (n d : Nat) : State :=
  ((s.unjammed n d).setFaults ((s.unjammed n d).ctl.faults.put false .jam)).startPump

theorem jamCleared_facts (s : State) (n d : Nat) :
    (s.jamCleared n d).monitor.sheets =
        (s.monitor.sheets.drop n).map (fun x => { x with due := x.due + d }) ∧
      (s.jamCleared n d).monitor.stop = none ∧ (s.jamCleared n d).monitor.tol = s.monitor.tol ∧
      (s.jamCleared n d).ctl.faults = { s.ctl.faults with jam := false } ∧ (s.jamCleared n d).now = s.now ∧
      (s.jamCleared n d).book =
        (((s.monitor.sheets.take n).filterMap (·.order)).foldl spoil s).book := by
  obtain ⟨hmon, hctl, hnow⟩ := loseHeads_facts n s
  obtain ⟨fmon, fnow⟩ := setFaults_monitor (s.unjammed n d) ((s.unjammed n d).ctl.faults.put false .jam)
  have hpump : ∀ t : State, t.startPump.monitor.stop = t.monitor.stop ∧
      t.startPump.monitor.tol = t.monitor.tol := fun t => by
    simp only [startPump]
    split <;> exact ⟨rfl, rfl⟩
  refine ⟨?_, ?_, ?_, ?_, ?_, ?_⟩
  · rw [jamCleared, startPump_monitor_sheets, fmon]
    show (s.loseHeads n).monitor.sheets.map _ = _
    rw [hmon]
  · rw [jamCleared, (hpump _).1, fmon]
    rfl
  · rw [jamCleared, (hpump _).2, fmon]
    show (s.loseHeads n).monitor.tol = _
    rw [hmon]
  · rw [jamCleared, startPump_tr, setFaults_ctl, ← hctl]
    rfl
  · rw [jamCleared, startPump_tr]
    show (setFaults _ _).now = _
    rw [fnow]
    exact hnow
  · rw [jamCleared, startPump_tr]
    show (setFaults _ _).book = _
    rw [setFaults_book]
    exact loseHeads_book n s

theorem jamClear_eq {s : State} {n : Half} {since : Nat} (h1 : n.toNat ≤ 600) (h2 : s.monitor.stop = some since)
    (h3 : n.toNat ≤ s.monitor.sheets.length) : s.jamClear n =
      done s (s.jamCleared n.toNat (s.now / 1000 - since)).checkWatchdog
        (le16 n.toNat ++ le32 (s.now / 1000 - since)) := by
  simp only [jamClear, h2, if_neg (Nat.not_lt.2 h1), if_neg (Nat.not_lt.2 h3)]
  rfl

/-! ### Spoils -/

theorem spoil_live {s : State} {x : OrderItem} {i : Nat} (hi : s.findLive x.number = some i)
    (h : (s.orderAt i).state ≠ .void) : s.spoil x = s.spoilLive i x.item := by
  simp only [spoil, hi, beq_iff_eq, if_neg h]

theorem spoil_void {s : State} {x : OrderItem} {i : Nat} (hi : s.findLive x.number = some i)
    (h : (s.orderAt i).state = .void) : s.spoil x = s.discard i x.item := by
  simp only [spoil, hi, h, beq_self_eq_true, if_true]

/-- The counters of a spoiled print (R10). -/
def spoiled (n : Counts) : Counts := { n with w := n.w - 1, p := n.p + 1, spoil := min 4 (n.spoil + 1) }

/-- A spoil: back to pending; the fourth adds FAULT, an earlier one queues a DRAINING order again (R10). -/
theorem spoilLive_eq {s : State} {i item : Nat} {c : Counts} (hl : (s.orderAt i).live = true)
    (hc : (s.orderAt i).countsAt item = some c) : s.spoilLive i item =
      if 3 ≤ c.spoil then (s.moveCounts i item spoiled).addHold i .fault
      else if (s.orderAt i).state = .draining then (s.moveCounts i item spoiled).setOrderState i .queued
      else s.moveCounts i item spoiled := by
  have hat : (s.moveCounts i item spoiled).orderAt i = (s.orderAt i).modCounts item spoiled :=
    modOrder_same s _ (lt_of_live hl)
  have hfour : (((s.moveCounts i item spoiled).orderAt i).countsAt item).any (fun n => n.spoil == 4) = true ↔
      3 ≤ c.spoil := by
    rw [hat, countsAt_modCounts, hc]
    simp only [Option.map_some, Option.any_some, spoiled, beq_iff_eq]
    omega
  have hstate : ((s.moveCounts i item spoiled).orderAt i).state = (s.orderAt i).state := by
    rw [hat, (modCounts_rest _ _ _).1]
  have hunfold : s.spoilLive i item =
      if (((s.moveCounts i item spoiled).orderAt i).countsAt item).any (fun n => n.spoil == 4) then
        (s.moveCounts i item spoiled).addHold i .fault
      else if ((s.moveCounts i item spoiled).orderAt i).state == .draining then
        (s.moveCounts i item spoiled).setOrderState i .queued
      else s.moveCounts i item spoiled := rfl
  rw [hunfold, hstate]
  simp only [hfour, beq_iff_eq]

theorem spoilLive_facts {s : State} {i item : Nat} {c : Counts} (hl : (s.orderAt i).live = true)
    (hc : (s.orderAt i).countsAt item = some c) :
    ((s.spoilLive i item).orderAt i).countsAt item = some (spoiled c) ∧
      ((s.spoilLive i item).orderAt i).holds =
        (if 3 ≤ c.spoil then { (s.orderAt i).holds with fault := true } else (s.orderAt i).holds) ∧
      (c.spoil < 3 → ((s.spoilLive i item).orderAt i).state =
        if (s.orderAt i).state = .draining then .queued else (s.orderAt i).state) := by
  have hlt := lt_of_live hl
  have hat : (s.moveCounts i item spoiled).orderAt i = (s.orderAt i).modCounts item spoiled :=
    modOrder_same s _ hlt
  have hlen : i < (s.moveCounts i item spoiled).book.records.length := by
    show i < (modAt _ _ _).length
    rw [modAt_length]
    exact hlt
  obtain ⟨hstate, hholds, _⟩ := modCounts_rest (s.orderAt i) item spoiled
  have hcounts : ((s.orderAt i).modCounts item spoiled).countsAt item = some (spoiled c) := by
    rw [countsAt_modCounts, hc]
    rfl
  rw [spoilLive_eq hl hc]
  by_cases h3 : 3 ≤ c.spoil
  · obtain ⟨hitems, hindex, hadd⟩ := addHold_same (s.moveCounts i item spoiled) i .fault hlen
    rw [if_pos h3, if_pos h3]
    refine ⟨?_, ?_, fun h => by omega⟩
    · rw [Order.countsAt_congr hitems hindex, hat, hcounts]
    · rw [hadd, hat, hholds]
      rfl
  · rw [if_neg h3, if_neg h3]
    by_cases hd : (s.orderAt i).state = .draining
    · rw [if_pos hd, if_pos hd, setOrderState_same _ _ hlen, hat]
      exact ⟨hcounts, hholds, fun _ => rfl⟩
    · rw [if_neg hd, if_neg hd, hat]
      exact ⟨hcounts, hholds, fun _ => hstate⟩

/-! ### Frame starts -/

/-- The counters of a print that goes into flight (R8). -/
def begun (n : Counts) : Counts := { n with p := n.p - 1, w := n.w + 1 }

/-- The book of a frame start: one print from pending to in flight, started, DRAINING with the last (R8). -/
theorem startPrint_facts {s : State} {x : Target} {c : Counts} (hl : (s.orderAt x.record).live = true)
    (hc : (s.orderAt x.record).countsAt x.item = some c) (hp : 0 < c.p) :
    ((s.startPrint x).orderAt x.record).countsAt x.item = some (begun c) ∧
      ((s.startPrint x).orderAt x.record).started = true ∧
      ((s.startPrint x).orderAt x.record).state =
        (if (s.orderAt x.record).sum (·.p) = 1 then .draining else (s.orderAt x.record).state) ∧
      ∀ j, j ≠ x.record → (s.startPrint x).orderAt j = s.orderAt j := by
  have hlt := lt_of_live hl
  have hat := modOrder_same s (fun o => { o.modCounts x.item begun with started := true }) hlt
  have hlen : x.record < (s.modOrder x.record fun o =>
      { o.modCounts x.item begun with started := true }).book.records.length := by
    show x.record < (modAt _ _ _).length
    rw [modAt_length]
    exact hlt
  have hsum := sum_modCounts (s.orderAt x.record) x.item begun (·.p) c hc
  have hzero : ((s.orderAt x.record).modCounts x.item begun).sum (·.p) = 0 ↔
      (s.orderAt x.record).sum (·.p) = 1 := by
    simp only [begun] at hsum ⊢
    omega
  have hcounts : ((s.orderAt x.record).modCounts x.item begun).countsAt x.item = some (begun c) := by
    rw [countsAt_modCounts, hc]
    rfl
  have hstart : s.startPrint x =
      if (s.orderAt x.record).sum (·.p) = 1 then
        (s.modOrder x.record fun o => { o.modCounts x.item begun with started := true }).setOrderState x.record
          .draining
      else s.modOrder x.record fun o => { o.modCounts x.item begun with started := true } := by
    rw [← if_congr hzero rfl rfl,
      show ((s.orderAt x.record).modCounts x.item begun).sum (·.p) =
        ((s.modOrder x.record fun o => { o.modCounts x.item begun with started := true }).orderAt x.record).sum
          (·.p) by rw [hat]; rfl]
    rfl
  rw [hstart]
  by_cases h1 : (s.orderAt x.record).sum (·.p) = 1
  · rw [if_pos h1, if_pos h1, setOrderState_same _ _ hlen, hat]
    refine ⟨hcounts, rfl, rfl, fun j hj => ?_⟩
    rw [setOrderState_other _ _ hj]
    exact modOrder_other s _ hj
  · rw [if_neg h1, if_neg h1, hat]
    exact ⟨hcounts, rfl, (modCounts_rest _ _ _).1, fun j hj => modOrder_other s _ hj⟩

theorem startContext_start (s : State) (m : MagSlot) (g : Geometry) (target : Option Target) :
    (s.startContext m g target).start = s.cutter.nextStart s.transport.position := by
  cases target with
  | none => rfl
  | some t =>
    simp only [startContext, orderContext]
    split
    · rfl
    · split <;> rfl

/-- A frame start leaves what `takeFrame` has written in the book, the monitor, the cutter and the scheduler. -/
theorem startFrame_taken (s : State) (m : MagSlot) (g : Geometry) (target : Option Target) :
    (s.startFrame m g target).book = (s.copyCorrections.startTarget target).book ∧
      (s.startFrame m g target).monitor = s.monitor.addArea g.area ∧
      (s.startFrame m g target).sched.request = none ∧ (s.startFrame m g target).sched.waitCause = .none ∧
      (s.startFrame m g target).cutter = { s.cutter with
        web := s.cutter.web ++ [(s.copyCorrections.startTarget target).startRecord m g target] } := by
  obtain ⟨hcut, hmon, _⟩ := startTarget_frame s.copyCorrections target
  obtain ⟨hcut', hmon', _⟩ := copyCorrections_frame s
  rw [startFrame_eq, writeLines_tr, countFrame_rest, setLine_frame]
  refine ⟨rfl, ?_, rfl, rfl, ?_⟩
  · rw [← hmon', ← hmon]
    rfl
  · rw [← hcut', ← hcut]
    rfl

end State

end Sys2Proof.Machine

namespace Sys2Proof.Proofs

open Sys2Proof.Machine Sys2Proof.Machine.State

/-- Settles O52: time only appends sheets, so the head at the expiry is the head it was armed for. -/
theorem jamsStopTheProcessorUntilCleared : Obligations.JamsStopTheProcessorUntilCleared := by
  unfold Obligations.JamsStopTheProcessorUntilCleared
  refine fun h n s hp => ⟨fun hoff => happens_event ?_, fun x rest e hstop hx he => ?_,
    fun hbig => refused_of (mem_linePort hp) ?_, fun h1 h2 => refused_of (mem_linePort hp) ?_,
    fun since h1 h2 h3 => refused_of (mem_linePort hp) ?_, fun since d h1 h2 h3 hd => ?_⟩
  · have hno := watchdog_off hoff
    simp only [watchdogExpires]
  · obtain ⟨more, hmore⟩ := passTo_appends s (x.due + s.monitor.tol * 1000)
    rw [← he, hx, List.cons_append] at hmore
    have hnow : e.now = max s.now ((x.due + s.monitor.tol * 1000) * 1000) := by rw [he, passTo_now]
    have hbook : e.book = s.book := by rw [he, passTo_frame]
    obtain ⟨jnow, jsheets, jstop, jfaults, jbook⟩ := jam_facts hmore
    refine ⟨more, e.jam, hmore, happens_event ?_, jnow.trans hnow, jsheets, ?_, jfaults, fun hno => ?_, fun k hk => ?_⟩
    · simp only [watchdogExpires, watchdog_armed hstop hx, he]
    · rw [jstop, jnow]
    · rw [jbook, hno]
      exact hbook
    · rw [jbook, hk]
      exact spoil_book_congr (s := { e with monitor.sheets := rest ++ more }) (t := e) rfl k
  · simp only [jamClear, if_pos hbig]
  · simp only [jamClear, if_neg (Nat.not_lt.2 h1), h2]
  · simp only [jamClear, if_neg (Nat.not_lt.2 h1), h2, if_pos h3]
  · subst hd
    obtain ⟨hsheets, hstop, htol, hfaults, hnow, hbook⟩ := jamCleared_facts s n.toNat (s.now / 1000 - since)
    refine ⟨_, served_done (mem_linePort hp) (jamClear_eq h1 h2 h3), fun hearly => ?_, fun x rest hx hlate => ?_⟩
    · rw [checkWatchdog_early hstop fun y hy => ?_]
      · exact ⟨hsheets, hstop, hfaults, hbook⟩
      · rw [hsheets, List.head?_map] at hy
        obtain ⟨x, hx, rfl⟩ := Option.map_eq_some_iff.1 hy
        rw [hnow, htol]
        exact hearly x hx
    · rw [hx, List.map_cons] at hsheets
      rw [checkWatchdog_late hstop hsheets (by rw [hnow, htol]; exact hlate)]
      obtain ⟨_, jsheets, jstop, jfaults, jbook⟩ := jam_facts hsheets
      refine ⟨jsheets, by rw [jstop, hnow], by rw [jfaults, hfaults], ?_⟩
      have htake : s.monitor.sheets.take (n.toNat + 1) = s.monitor.sheets.take n.toNat ++ [x] := by
        have hat : s.monitor.sheets[n.toNat]? = some x := by rw [← List.head?_drop, hx]; rfl
        rw [List.take_add_one, hat]
        rfl
      rw [jbook, htake, List.filterMap_append, List.foldl_append]
      refine (spoil?_book_congr hbook x.order).trans ?_
      cases hk : x.order with
      | none => simp [hk, spoil?]
      | some k => simp [hk, spoil?]

/-- Settles O53: each moves the counters of one print, and the state of its order with them. -/
theorem frameStartsAndSpoilsMoveOnePrint : Obligations.FrameStartsAndSpoilsMoveOnePrint := by
  unfold Obligations.FrameStartsAndSpoilsMoveOnePrint
  refine ⟨fun s x i o c hi ho hc => ⟨fun hv => ?_, fun hv r hr => ?_⟩, fun s t m g x o c ho hst hc hp ht => ?_⟩
  · subst ho
    rw [spoil_live hi hv]
    exact spoilLive_facts (findLive_some hi).1 hc
  · subst ho
    rw [spoil_void hi hv]
    exact discard_same s i x.item (live_of_find hi) hv r hr
  · subst ho
    have hbook : s.copyCorrections.book = s.book := copyCorrections_book s
    have hat : ∀ j, s.copyCorrections.orderAt j = s.orderAt j := fun j => orderAt_congr (by rw [hbook]) j
    have hlive : (s.copyCorrections.orderAt x.record).live = true := by
      rw [hat, Order.live, hst]
      rfl
    obtain ⟨h1, h2, h3, h4⟩ := startPrint_facts (x := x) hlive (by rw [hat]; exact hc) hp
    obtain ⟨tbook, tmon, treq, twait, tcut⟩ := startFrame_taken s m g (some x)
    rw [startTarget_book] at tbook
    have htat : ∀ j, t.orderAt j = (s.copyCorrections.startPrint x).orderAt j := fun j =>
      orderAt_congr (by rw [ht, tbook]) j
    rw [htat, ht]
    refine ⟨h1, h2, ?_, fun j hj => ?_, tmon, startFrame_ctl s m g (some x), treq, twait, _, tcut, ?_, rfl, rfl, rfl,
      rfl, rfl⟩
    · rw [h3, hat, hst]
    · rw [← ht, htat, h4 j hj, hat]
    · show (startContext _ m g (some x)).start = _
      rw [startContext_start, (startTarget_frame s.copyCorrections (some x)).1, (copyCorrections_frame s).1,
        (startTarget_rest s.copyCorrections (some x)).2, copyCorrections_tr]

end Sys2Proof.Proofs
end


section
/-! Scans, selection and reservation (O56). -/

set_option Elab.async false

namespace Sys2Proof.Machine

namespace State

/-! ### Scan conditions -/

theorem mayScan_iff (s : State) : s.mayScan = true ↔ s.current = none ∧ s.writing = false ∧
    s.ctl.runEnable = true ∧ s.ctl.faults = FaultSet.none ∧ s.cal.pattern = false ∧
    (s.ctl.line = .stopped ∨ s.ctl.line = .exposing) ∧ s.cal.pending = none := by
  cases hw : s.writing <;> simp [mayScan, lineReady, noFault, hw, and_assoc]

/-! ### Choice and reservation rest on the rolls, the bins and the record -/

theorem choose_congr {s t : State} (h : t.transport = s.transport) (o : Order) : t.choose o = s.choose o := by
  have hsuits : t.itemSuits = s.itemSuits := by
    funext o m k
    simp only [itemSuits, suits, (SameRolls.of_transport h).magState m, mag_congr h m]
  have hthr : t.threadedSuits o = s.threadedSuits o := by
    funext k
    simp only [threadedSuits, hsuits, h]
  have hchange : t.changeFor o = s.changeFor o := by
    funext k
    simp only [changeFor, hsuits, h]
  simp only [choose, hthr, hchange]

theorem reserve_none_iff (s : State) (i : Nat) : s.reserve i = none ↔
    (s.sorter.freeBins (s.sorter.bankFor (s.orderAt i).number)).length <
      (s.orderAt i).need - (s.orderAt i).bins.length := by
  simp only [reserve]
  split
  · next h => simp [h]
  · next h => simp [h]

theorem reserve_none_congr {s t : State} {i : Nat} (hs : t.sorter = s.sorter) (ho : t.orderAt i = s.orderAt i) :
    t.reserve i = none ↔ s.reserve i = none := by
  rw [reserve_none_iff, reserve_none_iff, hs, ho]

theorem reservedBins_congr {s t : State} {i : Nat} (hs : t.sorter = s.sorter) (ho : t.orderAt i = s.orderAt i) :
    t.reservedBins i = s.reservedBins i := by
  simp only [reservedBins, hs, ho]

theorem reservedSorter_congr {s t : State} {i : Nat} (hs : t.sorter = s.sorter)
    (ho : t.orderAt i = s.orderAt i) : t.reservedSorter i = s.reservedSorter i := by
  simp only [reservedSorter, reservedBins_congr hs ho, hs, ho]

/-- What a reservation that succeeds leaves (R155). -/
theorem reserve_facts {s t : State} {i : Nat} (h : s.reserve i = some t) (hlt : i < s.book.records.length) :
    t.orderAt i = { s.orderAt i with bins := (s.orderAt i).bins ++ s.reservedBins i } ∧
      (∀ j, j ≠ i → t.orderAt j = s.orderAt j) ∧ t.sorter = s.reservedSorter i ∧
      t.book.queue = s.book.queue ∧ t.due = s.due ∧ t.book.records.length = s.book.records.length := by
  obtain ⟨_, rfl⟩ := reserve_some h
  refine ⟨?_, fun j hj => ?_, rfl, rfl, rfl, ?_⟩
  · rw [modOrder_same _ _ (show i < ({ s with sorter := s.reservedSorter i } : State).book.records.length from hlt)]
    rfl
  · rw [modOrder_other _ _ hj]
    rfl
  · show (modAt _ _ _).length = _
    rw [modAt_length]

/-! ### The walk along the queue -/

/-- The record of order k once the orders `done` have been walked: HELD for PAPER where its choice is PAPER. -/
def walkedOrder (s : State) (done : List Nat) (k : Nat) : Order :=
  if k ∈ done ∧ s.choose (s.orderAt k) = .paper ∧ (s.orderAt k).holds.paper = false then
    { s.orderAt k with state := .held, holds := { (s.orderAt k).holds with paper := true } }
  else s.orderAt k

/-- `v` is `s` with the orders `done` walked, none of them selected (R54). -/
structure Walked (s : State) (done : List Nat) (v : State) : Prop where
  transport : v.transport = s.transport
  sorter : v.sorter = s.sorter
  due : v.due = s.due
  size : v.book.records.length = s.book.records.length
  orders : ∀ k, v.orderAt k = s.walkedOrder done k
  queue : v.book.queue = s.book.queue.filter fun k => (v.orderAt k).state == .queued

theorem Walked.start {s : State} (hs : BookSound s) : Walked s [] s := by
  refine ⟨rfl, rfl, rfl, rfl, fun k => ?_, ?_⟩
  · rw [walkedOrder, if_neg (by simp)]
  · refine (List.filter_eq_self.2 fun k hk => ?_).symm
    simpa using (hs.queueExact k).1 hk

theorem Walked.untouched {s v : State} {done : List Nat} (h : Walked s done v) {k : Nat} (hk : k ∉ done) :
    v.orderAt k = s.orderAt k := by
  rw [h.orders, walkedOrder, if_neg fun c => hk c.1]

/-- Walking an order that no hold is added to changes nothing. -/
theorem Walked.skip {s v : State} {done : List Nat} (h : Walked s done v) {j : Nat}
    (hj : s.choose (s.orderAt j) ≠ .paper ∨ (s.orderAt j).holds.paper = true) : Walked s (done ++ [j]) v := by
  refine ⟨h.transport, h.sorter, h.due, h.size, fun k => ?_, h.queue⟩
  rw [h.orders]
  by_cases hk : k = j
  · subst hk
    have hno : ¬(s.choose (s.orderAt k) = .paper ∧ (s.orderAt k).holds.paper = false) := by
      rintro ⟨h1, h2⟩
      rcases hj with e | e
      · exact e h1
      · rw [e] at h2; cases h2
    rw [walkedOrder, walkedOrder, if_neg fun c => hno c.2, if_neg fun c => hno c.2]
  · simp only [walkedOrder, List.mem_append, List.mem_singleton, hk, or_false]

/-- Walking an order whose choice is PAPER holds it and takes it out of the queue (R54, R57). -/
theorem Walked.hold {s v : State} {done : List Nat} (h : Walked s done v) {j : Nat} (hnew : j ∉ done)
    (hq : (s.orderAt j).state = .queued) (hc : s.choose (s.orderAt j) = .paper)
    (hp : (s.orderAt j).holds.paper = false) : Walked s (done ++ [j]) (v.addHold j .paper) := by
  have hat := h.untouched hnew
  have hlive : (v.orderAt j).live = true := by rw [hat, Order.live, hq]; rfl
  have hno : (v.orderAt j).holds.has .paper = false := by rw [hat]; exact hp
  have hacts : v.holdActs j .paper = true := by simp only [holdActs, hat, hq]
  obtain ⟨h1, h2, h3, _, _⟩ := addHold_held hlive hno hacts
  have heq := addHold_new hno
  rw [if_pos hacts] at heq
  have hmod : ((v.modOrder j fun o => { o with holds := o.holds.add .paper }).orderAt j).state = .queued := by
    rw [modOrder_same _ _ (lt_of_live hlive), hat]
    exact hq
  refine ⟨?_, ?_, ?_, ?_, fun k => ?_, ?_⟩
  · rw [addHold_frame v j .paper]
    exact h.transport
  · rw [heq, setOrderState_sorter, if_neg (by simp)]
    exact h.sorter
  · rw [heq, setOrderState_due, hmod]
    simp only [reduceCtorEq, or_self, decide_false, Bool.or_false]
    exact h.due
  · rw [heq, setOrderState_records, modAt_length]
    show (modAt _ _ _).length = _
    rw [modAt_length]
    exact h.size
  · by_cases hk : k = j
    · subst hk
      rw [h1, hat, walkedOrder, if_pos ⟨by simp, hc, hp⟩]
      rfl
    · rw [h2 k hk, h.orders]
      simp only [walkedOrder, List.mem_append, List.mem_singleton, hk, or_false]
  · rw [h3, hat, hq, queueLeft, if_pos rfl, h.queue, List.filter_filter]
    refine List.filter_congr fun k _ => ?_
    by_cases hk : k = j
    · subst hk
      simp [h1]
    · simp [h2 k hk, hk]

/-- The walk passes over the orders whose choice is PAPER or whose bins cannot be reserved (R54). -/
theorem scanWalk_passes {s : State} (rest : List Nat) : ∀ (l done : List Nat) (v : State), Walked s done v →
    l.Nodup → (∀ j ∈ l, j ∉ done) → (∀ j ∈ l, (s.orderAt j).state = .queued) →
    (∀ j ∈ l, s.choose (s.orderAt j) = .paper ∨ s.reserve j = none) →
    ∃ v', Walked s (done ++ l) v' ∧ v.scanWalk (l ++ rest) = v'.scanWalk rest
  | [], done, v, h, _, _, _, _ => ⟨v, by rwa [List.append_nil], rfl⟩
  | j :: l, done, v, h, hnd, hdone, hq, hpass => by
    obtain ⟨hjl, hnd'⟩ := List.nodup_cons.1 hnd
    have hjd : j ∉ done := hdone j (by simp)
    have hat := h.untouched hjd
    have hchoose : v.choose (v.orderAt j) = s.choose (s.orderAt j) := by rw [hat, choose_congr h.transport]
    have hnext : ∀ v1, Walked s (done ++ [j]) v1 → v.scanWalk (j :: (l ++ rest)) = v1.scanWalk (l ++ rest) →
        ∃ v', Walked s (done ++ j :: l) v' ∧ v.scanWalk (j :: (l ++ rest)) = v'.scanWalk rest := by
      intro v1 hv1 hstep
      obtain ⟨v', hv', he⟩ := scanWalk_passes rest l (done ++ [j]) v1 hv1 hnd'
        (fun k hk hmem => by
          rcases List.mem_append.1 hmem with e | e
          · exact hdone k (by simp [hk]) e
          · rw [List.mem_singleton.1 e] at hk
            exact hjl hk)
        (fun k hk => hq k (by simp [hk])) (fun k hk => hpass k (by simp [hk]))
      refine ⟨v', ?_, hstep.trans he⟩
      rwa [List.append_assoc, List.singleton_append] at hv'
    by_cases hc : s.choose (s.orderAt j) = .paper
    · have hstep : v.scanWalk (j :: (l ++ rest)) = (v.addHold j .paper).scanWalk (l ++ rest) := by
        simp only [scanWalk, hchoose, hc]
      refine hnext (v.addHold j .paper) ?_ hstep
      cases hp : (s.orderAt j).holds.paper with
      | false => exact h.hold hjd (hq j (by simp)) hc hp
      | true =>
        rw [addHold_has (show (v.orderAt j).holds.has .paper = true by rw [hat]; exact hp)]
        exact h.skip (.inr hp)
    · have hnone : v.reserve j = none :=
        (reserve_none_congr h.sorter hat).2 ((hpass j (by simp)).resolve_left hc)
      refine hnext v (h.skip (.inl hc)) ?_
      simp only [scanWalk, hchoose, hnone]

/-- The first order that can be selected is (R54, R55). -/
theorem Walked.select {s v t : State} {done rest : List Nat} {i : Nat} (h : Walked s done v) (hi : i ∉ done)
    (hq : (s.orderAt i).state = .queued) (hc : s.choose (s.orderAt i) ≠ .paper) (ht : s.reserve i = some t) :
    (v.scanWalk (i :: rest)).orderAt i = { t.orderAt i with state := .active } ∧
      (∀ j, j ≠ i → (v.scanWalk (i :: rest)).orderAt j = s.walkedOrder done j) ∧
      (v.scanWalk (i :: rest)).sorter = t.sorter ∧ (v.scanWalk (i :: rest)).sched.queueBlocked = false ∧
      (v.scanWalk (i :: rest)).due = { s.due with attempt := true } ∧
      (v.scanWalk (i :: rest)).book.queue =
        s.book.queue.filter fun j => ((v.scanWalk (i :: rest)).orderAt j).state == .queued := by
  have hat := h.untouched hi
  have hlt : i < s.book.records.length := lt_of_live (by rw [Order.live, hq]; rfl)
  have hlt' : i < v.book.records.length := by rw [h.size]; exact hlt
  cases hr : v.reserve i with
  | none => rw [(reserve_none_congr h.sorter hat).1 hr] at ht; cases ht
  | some w =>
    obtain ⟨w1, w2, w3, w4, w5, w6⟩ := reserve_facts hr hlt'
    obtain ⟨t1, _, t3, _, _, _⟩ := reserve_facts ht hlt
    have hwi : w.orderAt i = t.orderAt i := by rw [w1, t1, hat, reservedBins_congr h.sorter hat]
    have hwq : (w.orderAt i).state = .queued := by rw [w1, hat]; exact hq
    have hlen : i < w.book.records.length := by rw [w6]; exact hlt'
    have hstep : v.scanWalk (i :: rest) = w.select i := by
      simp only [scanWalk, hr, hat, choose_congr h.transport]
    have hsel : ∀ j, (w.select i).orderAt j = (w.setOrderState i .active).orderAt j := fun _ => rfl
    have hself : (w.select i).orderAt i = { t.orderAt i with state := .active } := by
      rw [hsel, setOrderState_same _ _ hlen, hwi]
    have hother : ∀ j, j ≠ i → (w.select i).orderAt j = v.orderAt j := fun j hj => by
      rw [hsel, setOrderState_other _ _ hj, w2 j hj]
    rw [hstep]
    refine ⟨hself, fun j hj => (hother j hj).trans (h.orders j), ?_, rfl, ?_, ?_⟩
    · show (w.setOrderState i .active).sorter = _
      rw [setOrderState_sorter, if_neg (by simp), w3, t3, reservedSorter_congr h.sorter hat]
    · show ({ (w.setOrderState i .active).due with attempt := true } : Due) = _
      rw [setOrderState_due, hwq, w5, h.due]
      simp
    · show (w.setOrderState i .active).book.queue = _
      rw [setOrderState_queue, if_neg (by simp), hwq, queueLeft, if_pos rfl, w4, h.queue, List.filter_filter]
      refine List.filter_congr fun k _ => ?_
      by_cases hk : k = i
      · subst hk
        simp [hself]
      · simp [hother k hk, hk]

end State

theorem Window.covers_iff (w : Window) {n : Nat} (h : 1 ≤ n) :
    w.covers n = true ↔ w.limit ≠ 0 ∧ w.base ≤ n ∧ n ≤ w.limit := by
  simp only [covers, h, decide_true, Bool.and_true, Bool.and_eq_true, decide_eq_true_eq, Nat.pos_iff_ne_zero,
    and_assoc]

theorem Sorter.freeBins_eq (t : Sorter) (k : Bank) : t.freeBins k = (List.range' 1 24).filter fun b =>
    (t.bin b).state == .free && (if b ≤ 16 then Bank.a else Bank.b) == k := by
  rw [freeBins, show (List.range 24).map (· + 1) = List.range' 1 24 by decide]
  rfl

theorem Order.need_eq (o : Order) : o.need = max 1 ((o.sum (fun n => n.d + n.w + n.p) + 99) / 100) := rfl

end Sys2Proof.Machine

namespace Sys2Proof.Proofs

open Sys2Proof.Machine Sys2Proof.Machine.State

/-- Settles O56: the walk holds orders for PAPER one by one, and selects the first it can. -/
theorem scansSelectAndReserve : Obligations.ScansSelectAndReserve := by
  unfold Obligations.ScansSelectAndReserve
  refine ⟨fun s => ⟨mayScan_iff s, fun hd => ?_, fun hd hno => ?_, fun hd hyes => ?_⟩,
    fun s u pre walked hs hpass hwalked hu => ?_, fun s i need lack o free hlt hbins ho hneed hlack hfree => ?_,
    fun t n covers hn hcovers => ?_⟩
  · simp only [runScan, hd, Bool.false_eq_true, if_false]
  · have hno' : ¬ ({ s with due.scan := false } : State).mayScan = true := by
      rw [show ({ s with due.scan := false } : State).mayScan = s.mayScan from rfl, hno]
      simp
    simp only [runScan, hd, if_true, if_neg hno']
  · have hyes' : ({ s with due.scan := false } : State).mayScan = true := hyes
    simp only [runScan, hd, if_true, if_pos hyes']
  · have hwalks : ∀ j, walked j = s.walkedOrder pre j := hwalked
    have hqueued : ∀ j ∈ s.book.queue, (s.orderAt j).state = .queued := fun j hj => (hs.queueExact j).1 hj
    refine ⟨fun i post t hq hc ht => ?_, fun hq => ?_⟩
    · have hnd := hs.queueOnce
      rw [hq] at hnd
      obtain ⟨v, hv, he⟩ := scanWalk_passes (s := s) (i :: post) pre [] s (Walked.start hs)
        (List.Nodup.of_append_left hnd) (fun _ _ => List.not_mem_nil) (fun j hj => hqueued j (by simp [hq, hj])) hpass
      rw [List.nil_append] at hv
      have hi : i ∉ pre := fun h => (List.disjoint_of_nodup_append hnd) h (by simp)
      rw [hu]
      simp only [hwalks]
      rw [hq, he, ← hq]
      exact hv.select hi (hqueued i (by simp [hq])) hc ht
    · obtain ⟨v, hv, he⟩ := scanWalk_passes (s := s) [] pre [] s (Walked.start hs) (hq ▸ hs.queueOnce)
        (fun _ _ => List.not_mem_nil) (fun j hj => hqueued j (by rw [hq]; exact hj)) hpass
      rw [List.nil_append] at hv
      rw [List.append_nil] at he
      have hend : u = { v with sched.queueBlocked := !v.book.queue.isEmpty } := by rw [hu, hq, he]; rfl
      rw [hend]
      exact ⟨fun j => (hv.orders j).trans (hwalks j).symm, hv.sorter, rfl, hv.due, hv.queue⟩
  · subst ho
    have hf : s.sorter.freeBins (s.sorter.bankFor (s.orderAt i).number) = free := by rw [hfree, Sorter.freeBins_eq]
    have hl : (s.orderAt i).need - (s.orderAt i).bins.length = lack := by rw [hlack, hneed, Order.need_eq]
    have hbs : s.reservedBins i = free.take lack := by rw [reservedBins, hf, hl]
    refine ⟨fun hfew => ?_, fun henough => ?_⟩
    · rw [reserve_none_iff, hf, hl]
      exact hfew
    · cases hr : s.reserve i with
      | none =>
        rw [reserve_none_iff, hf, hl] at hr
        omega
      | some t =>
        obtain ⟨t1, t2, t3, _, _, _⟩ := reserve_facts hr hlt
        obtain ⟨_, ht⟩ := reserve_some hr
        refine ⟨t, rfl, by rw [t1, hbs], t2, fun b => ?_, by rw [ht]; rfl, by rw [ht]; rfl⟩
        have hnd : (free.take lack).Nodup := (hf ▸ freeBins_nodup s.sorter _).sublist (List.take_sublist _ _)
        rw [t3, reservedSorter, hbs, Sorter.bin_modBins _ _ _ _ hnd, hbins]
        refine if_congr ⟨And.left, fun h => ⟨h, ?_⟩⟩ rfl rfl
        obtain ⟨h1, h2, _⟩ := freeBins_mem (hf ▸ List.mem_of_mem_take h)
        exact ⟨h1, h2⟩
  · have hiff : ∀ w : Window, w.covers n = true ↔ covers w := fun w => by rw [hcovers, Window.covers_iff w hn]
    refine ⟨fun h1 => ?_, fun h1 h2 => ?_, fun h1 h2 => ?_⟩
    · simp only [Sorter.bankFor, if_pos ((hiff _).2 h1)]
    · simp only [Sorter.bankFor, if_neg fun h => h1 ((hiff _).1 h), if_pos ((hiff _).2 h2)]
    · simp only [Sorter.bankFor, if_neg fun h => h1 ((hiff _).1 h), if_neg fun h => h2 ((hiff _).1 h)]

end Sys2Proof.Proofs
end


section
/-! The sorter's entrance and its deliveries (O54). -/

set_option Elab.async false

namespace Sys2Proof.Machine

namespace State

/-! ### A rejected sheet -/

theorem rejectSheet_facts (s : State) :
    s.rejectSheet.sorter = { s.sorter with
      reject := min 999 (s.sorter.reject + 1), select := 0, gate := some (s.now / 1000) } ∧
    s.rejectSheet.ctl.faults =
      (if 199 ≤ s.sorter.reject then { s.ctl.faults with rejectFull := true } else s.ctl.faults) ∧
    ∀ i, s.rejectSheet.orderAt i = s.orderAt i := by
  obtain ⟨hframe, hfaults⟩ := rejectSheet_frame s
  refine ⟨by rw [hframe], hfaults, fun i => orderAt_congr (by rw [rejectSheet_book]) i⟩

/-- A sheet rejected and skipped leaves the sorter as the rejection does, but for the bins of a READY order. -/
theorem rejectSheet_discard_sorter (s : State) (i k : Nat) :
    (s.rejectSheet.discard i k).sorter.reject = min 999 (s.sorter.reject + 1) ∧
      (s.rejectSheet.discard i k).sorter.select = 0 ∧
      (s.rejectSheet.discard i k).sorter.gate = some (s.now / 1000) := by
  have hframe := discard_frame s.rejectSheet i k
  have hsorter : (s.rejectSheet.discard i k).sorter =
      { s.rejectSheet.sorter with bins := (s.rejectSheet.discard i k).sorter.bins } := by rw [hframe]
  rw [hsorter, (rejectSheet_facts s).1]
  exact ⟨rfl, rfl, rfl⟩

/-! ### The look at a record after a move -/

/-- The last print of a DRAINING order makes it READY; an order that is neither DRAINING nor VOID stays (R9). -/
theorem afterMove_of_not_void {s : State} {i : Nat} (h : (s.orderAt i).state ≠ .void) :
    s.afterMove i =
      if (s.orderAt i).state = .draining ∧ (s.orderAt i).sum (·.w) = 0 ∧ (s.orderAt i).sum (·.p) = 0 then
        s.setOrderState i .ready
      else s := by
  simp only [afterMove]
  cases hst : (s.orderAt i).state with
  | void => exact absurd hst h
  | draining => simp only [true_and, Bool.and_eq_true, decide_eq_true_eq]
  | free | opened | queued | active | held | ready => simp only [reduceCtorEq, false_and, if_false]

theorem afterMove_counts {s : State} {i : Nat} (hlt : i < s.book.records.length)
    (h : (s.orderAt i).state ≠ .void) (k : Nat) :
    ((s.afterMove i).orderAt i).countsAt k = (s.orderAt i).countsAt k ∧
      ((s.afterMove i).orderAt i).inspect = (s.orderAt i).inspect := by
  rw [afterMove_of_not_void h]
  split
  · rw [setOrderState_same _ _ hlt]
    exact ⟨Order.countsAt_congr rfl rfl k, rfl⟩
  · exact ⟨rfl, rfl⟩

theorem discard_counts {s : State} {i : Nat} (hlt : i < s.book.records.length)
    (h : (s.orderAt i).state ≠ .void) (k : Nat) :
    ((s.discard i k).orderAt i).countsAt k =
        ((s.orderAt i).countsAt k).map (fun n => { n with w := n.w - 1, s := n.s + 1 }) ∧
      ((s.discard i k).orderAt i).inspect = (s.orderAt i).inspect := by
  have hat : (s.moveCounts i k fun n => { n with w := n.w - 1, s := n.s + 1 }).orderAt i =
      (s.orderAt i).modCounts k fun n => { n with w := n.w - 1, s := n.s + 1 } := modOrder_same s _ hlt
  obtain ⟨hstate, _, _, _, hinspect⟩ :=
    modCounts_rest (s.orderAt i) k fun n => { n with w := n.w - 1, s := n.s + 1 }
  obtain ⟨hcounts, hkept⟩ := afterMove_counts
    (s := s.moveCounts i k fun n => { n with w := n.w - 1, s := n.s + 1 })
    (by simpa [moveCounts] using hlt) (by rw [hat, hstate]; exact h) k
  rw [hat] at hcounts hkept
  exact ⟨hcounts.trans (countsAt_modCounts _ _ _), hkept.trans hinspect⟩

/-! ### A delivery -/

/-- A delivery, before the look at the record. -/
def dropIn (s : State) (i k b : Nat) (inspect : Bool) : State :=
  let u := ({ s with sorter := s.sorter.modBins fill [b] }.steer b).moveCounts i k fun n =>
    { n with w := n.w - 1, d := n.d + 1 }
  if inspect then (u.modOrder i fun o => { o with inspect := true }).raise .inspect else u

theorem deliver_eq (s : State) (i k b : Nat) (inspect : Bool) :
    s.deliver i k b inspect = (s.dropIn i k b inspect).afterMove i := rfl

theorem dropIn_facts {s : State} {i : Nat} (hlt : i < s.book.records.length) (k b : Nat) (inspect : Bool)
    {r : Order} (hr : r = (s.orderAt i).modCounts k fun n => { n with w := n.w - 1, d := n.d + 1 }) :
    (s.dropIn i k b inspect).orderAt i = { r with inspect := inspect || (s.orderAt i).inspect } ∧
      (s.dropIn i k b inspect).sorter =
        { s.sorter.modBins fill [b] with select := b, gate := some (s.now / 1000) } ∧
      i < (s.dropIn i k b inspect).book.records.length ∧
      ∀ p, ((s.dropIn i k b inspect).port p).flags = (s.port p).flags ||| if inspect then 256 else 0 := by
  have hat : (({ s with sorter := s.sorter.modBins fill [b] }.steer b).moveCounts i k fun n =>
      { n with w := n.w - 1, d := n.d + 1 }).orderAt i = r := by rw [hr]; exact modOrder_same _ _ hlt
  have hlen : i < (({ s with sorter := s.sorter.modBins fill [b] }.steer b).moveCounts i k fun n =>
      { n with w := n.w - 1, d := n.d + 1 }).book.records.length := by
    show i < (modAt _ _ _).length
    rwa [modAt_length]
  have hinspect : r.inspect = (s.orderAt i).inspect := by rw [hr]; exact (modCounts_rest _ _ _).2.2.2.2
  cases inspect with
  | false =>
    refine ⟨?_, rfl, hlen, fun p => BitVec.or_zero.symm⟩
    refine hat.trans ?_
    rw [Bool.false_or, ← hinspect]
  | true =>
    refine ⟨?_, rfl, ?_, fun p => (raise_flags _ .inspect p).trans rfl⟩
    · refine (modOrder_same _ _ hlen).trans ?_
      rw [hat, Bool.true_or]
    · show i < (modAt _ _ _).length
      rwa [modAt_length]

/-- A print delivered into bin `b`: the bin filled, the counters and the record moved, the flags raised (R157). -/
theorem deliver_facts {s : State} {i : Nat} (hlt : i < s.book.records.length) {k b : Nat} {inspect last : Bool}
    {r : Order} (hb : b ∈ (s.orderAt i).bins) (h1 : 1 ≤ b) (h2 : b ≤ s.sorter.bins.length)
    (hvoid : (s.orderAt i).state ≠ .void)
    (hr : r = (s.orderAt i).modCounts k fun n => { n with w := n.w - 1, d := n.d + 1 })
    (hlast : last = decide ((s.orderAt i).state = .draining ∧ r.sum (·.w) = 0 ∧ r.sum (·.p) = 0)) :
    ((s.deliver i k b inspect).sorter.bin b).count = (s.sorter.bin b).count + 1 ∧
      ((s.deliver i k b inspect).sorter.bin b).state = (if last then .complete else .filling) ∧
      (last = true → ∀ j ∈ (s.orderAt i).bins, 1 ≤ j → j ≤ s.sorter.bins.length →
        ((s.deliver i k b inspect).sorter.bin j).state = .complete) ∧
      (s.deliver i k b inspect).sorter.select = b ∧
      (s.deliver i k b inspect).sorter.gate = some (s.now / 1000) ∧
      (s.deliver i k b inspect).orderAt i = { r with
        inspect := inspect || (s.orderAt i).inspect
        state := if last then .ready else (s.orderAt i).state } ∧
      ∀ p, ((s.deliver i k b inspect).port p).flags = (s.port p).flags |||
        (if inspect then 256 else 0) ||| if last then 1 else 0 := by
  obtain ⟨hat, hsorter, hlen, hflags⟩ := dropIn_facts hlt k b inspect hr
  obtain ⟨hstate, _, hbins, _, _⟩ := modCounts_rest (s.orderAt i) k fun n => { n with w := n.w - 1, d := n.d + 1 }
  rw [← hr] at hstate hbins
  have hbin : (s.dropIn i k b inspect).sorter.bin b = fill (s.sorter.bin b) := by
    rw [hsorter]
    exact modBins_one s.sorter fill b h1 h2
  have hmove : s.deliver i k b inspect =
      if (s.orderAt i).state = .draining ∧ r.sum (·.w) = 0 ∧ r.sum (·.p) = 0 then
        (s.dropIn i k b inspect).setOrderState i .ready
      else s.dropIn i k b inspect := by
    rw [deliver_eq, afterMove_of_not_void (by rw [hat]; rwa [hstate]), hat, ← hstate]
    rfl
  rw [hmove]
  cases last with
  | false =>
    rw [if_neg (of_decide_eq_false hlast.symm), hbin, hsorter, hat]
    refine ⟨rfl, rfl, fun e => (by cases e), rfl, rfl, ?_, fun p => (hflags p).trans BitVec.or_zero.symm⟩
    rw [if_neg (by simp), ← hstate]
  | true =>
    rw [if_pos (of_decide_eq_true hlast.symm)]
    have hready : ∀ j ∈ (s.orderAt i).bins, 1 ≤ j → j ≤ s.sorter.bins.length →
        (((s.dropIn i k b inspect).setOrderState i .ready).sorter.bin j).state = .complete := fun j hj j1 j2 =>
      setOrderState_ready_bins _ i hlen j (by rw [hat]; rwa [hbins]) j1
        (by rw [hsorter]; exact (Sorter.modBins_length s.sorter fill [b]).symm ▸ j2)
    refine ⟨?_, hready b hb h1 h2, fun _ => hready, ?_, ?_, ?_, fun p => ?_⟩
    · rw [setOrderState_sorter, if_pos rfl, modBins_count (fun x => { x with state := .complete }) (fun _ => rfl),
        hbin]
      rfl
    · rw [setOrderState_sorter, if_pos rfl, hsorter]
      rfl
    · rw [setOrderState_sorter, if_pos rfl, hsorter]
      rfl
    · rw [setOrderState_same _ _ hlen, hat]
      rfl
    · rw [setOrderState_flags, hflags]
      rfl

/-! ### What the sorter does with a sheet -/

theorem sortSheet_test {s : State} {x : Sheet} (h : x.order = none) :
    s.sortSheet x = if x.inspect then s.rejectSheet.raise .inspect else s.rejectSheet := by
  simp only [sortSheet, h]

theorem sortSheet_stray {s : State} {x : Sheet} {k : OrderItem} (h : x.order = some k)
    (hi : s.findLive k.number = none) : s.sortSheet x = s.rejectSheet := by
  simp only [sortSheet, h, sortPrint, hi]

theorem sortSheet_void {s : State} {x : Sheet} {k : OrderItem} {i : Nat} (h : x.order = some k)
    (hi : s.findLive k.number = some i) (hv : (s.orderAt i).state = .void) :
    s.sortSheet x = s.rejectSheet.discard i k.item := by
  simp only [sortSheet, h, sortPrint, hi, hv, beq_self_eq_true, if_true]

theorem sortSheet_placed {s : State} {x : Sheet} {k : OrderItem} {i b : Nat} (h : x.order = some k)
    (hi : s.findLive k.number = some i) (hv : (s.orderAt i).state ≠ .void)
    (hb : s.binWithRoom (s.orderAt i).bins = some b) :
    s.sortSheet x = s.deliver i k.item b x.inspect := by
  simp only [sortSheet, h, sortPrint, hi, hb, beq_eq_false_iff_ne.2 hv, Bool.false_eq_true, if_false]

theorem sortSheet_full {s : State} {x : Sheet} {k : OrderItem} {i : Nat} (h : x.order = some k)
    (hi : s.findLive k.number = some i) (hv : (s.orderAt i).state ≠ .void)
    (hb : s.binWithRoom (s.orderAt i).bins = none) :
    s.sortSheet x = s.rejectSheet.discard i k.item := by
  simp only [sortSheet, h, sortPrint, hi, hb, beq_eq_false_iff_ne.2 hv, Bool.false_eq_true, if_false]

end State

end Sys2Proof.Machine

namespace Sys2Proof.Proofs

open Sys2Proof.Machine Sys2Proof.Machine.State

/-- Settles O54: an arrival is sorted by the record of its order; a delivery's last print makes the order READY. -/
theorem arrivalsAreSorted : Obligations.ArrivalsAreSorted := by
  unfold Obligations.ArrivalsAreSorted
  refine ⟨fun s e b he => ?_, fun s x k i o c => ?_⟩
  · subst he
    refine ⟨fun h => happens_event ?_, fun h => happens_event ?_, fun h => happens_event ?_,
      fun hin hsen => ⟨fun hnone => happens_event ?_, fun x rest hx => happens_event ?_⟩,
      fun h => happens_event ?_, fun hin hsen => happens_event ?_⟩
    · simp only [entranceInput, h, beq_self_eq_true, if_true]
    · simp only [entranceInput, beq_eq_false_iff_ne.2 h, Bool.false_eq_true, if_false]
      rfl
    · simp only [sheetArrives]
      rcases h with h | h <;> simp [h]
    · simp only [sheetArrives, hin, hsen, Bool.not_false, Bool.and_self, if_true, arrival, hnone]
    · simp only [sheetArrives, hin, hsen, Bool.not_false, Bool.and_self, if_true, arrival, hx]
      rfl
    · simp only [sensorClears]
      rcases h with h | h <;> simp [h]
    · simp only [sensorClears, hin, hsen, Bool.not_false, Bool.and_self, if_true]
  · obtain ⟨hsorter, hfaults, hbook⟩ := rejectSheet_facts s
    refine ⟨hsorter, hfaults, fun hx => ⟨fun hn => ?_, fun hn => ?_⟩, sortSheet_stray, fun hx hi ho hc => ?_⟩
    · rw [sortSheet_test hx, hn, if_neg (by simp)]
    · rw [sortSheet_test hx, hn, if_pos rfl]
    · subst ho
      have hlt := live_of_find hi
      have hltr : i < s.rejectSheet.book.records.length := by rw [rejectSheet_book]; exact hlt
      obtain ⟨hreject, hselect, hgate⟩ := rejectSheet_discard_sorter s i k.item
      refine ⟨fun hv r hr => ?_, fun b r last hv hb h1 h2 hr hlast => ?_, fun hv hb => ?_⟩
      · rw [sortSheet_void hx hi hv]
        exact ⟨discard_same _ i k.item hltr (by rw [hbook]; exact hv) r (by rw [hbook]; exact hr), hreject⟩
      · rw [sortSheet_placed hx hi hv hb]
        obtain ⟨hcount, hfill, hall, hsel, hgate', hat, hflags⟩ :=
          deliver_facts (inspect := x.inspect) hlt (List.mem_of_find?_eq_some hb) h1 h2 hv hr hlast
        refine ⟨hcount, hfill, hall, hsel, hgate', ?_, hat, hflags⟩
        have hcounts := Order.countsAt_congr (o := r) (r := (s.deliver i k.item b x.inspect).orderAt i)
          (by rw [hat]) (by rw [hat]) k.item
        rw [hcounts, hr, countsAt_modCounts, hc]
        rfl
      · rw [sortSheet_full hx hi hv hb]
        obtain ⟨hcounts, hinspect⟩ := discard_counts hltr (by rw [hbook]; exact hv) k.item
        rw [hbook] at hcounts hinspect
        exact ⟨hreject, hselect, hgate, by rw [hcounts, hc]; rfl, hinspect⟩

end Sys2Proof.Proofs
end


section
/-! LINE_RESET (O32): what the loss of the paper leaves as it was, and the line-reset values. -/

set_option Elab.async false

namespace Sys2Proof.Machine

/-! ### What spoils leave unchanged -/

/-- The slots of `n` are those of `m` but for item references. -/
structure ImageStore.SameSlots (m n : ImageStore) : Prop where
  slot : ∀ k, (n.slot k).state = (m.slot k).state ∧ (n.slot k).size = (m.slot k).size ∧
    (n.slot k).pages = (m.slot k).pages
  load : n.load = m.load
  frameValid : n.frameValid = m.frameValid

namespace ImageStore.SameSlots

theorem refl (m : ImageStore) : m.SameSlots m := ⟨fun _ => ⟨rfl, rfl, rfl⟩, rfl, rfl⟩

theorem trans {m n l : ImageStore} (h : m.SameSlots n) (k : n.SameSlots l) : m.SameSlots l where
  slot j := by
    obtain ⟨hstate, hsize, hpages⟩ := h.slot j
    obtain ⟨kstate, ksize, kpages⟩ := k.slot j
    exact ⟨kstate.trans hstate, ksize.trans hsize, kpages.trans hpages⟩
  load := k.load.trans h.load
  frameValid := k.frameValid.trans h.frameValid

theorem dropRef (m : ImageStore) (j : Nat) : m.SameSlots (m.dropRef j) where
  slot k := by
    have hslot : (m.dropRef j).slot k = _ :=
      getD_modAt (fun x : ImageSlot => { x with refs := x.refs - 1 }) ImageSlot.free m.slots j k
    rw [hslot]
    split
    · next h => rw [h.1]; exact ⟨rfl, rfl, rfl⟩
    · exact ⟨rfl, rfl, rfl⟩
  load := rfl
  frameValid := rfl

theorem dropRefs : ∀ (l : List Item) (m : ImageStore),
    m.SameSlots (l.foldl (fun m (x : Item) => m.dropRef x.slot) m)
  | [], m => refl m
  | x :: l, m => (dropRef m x.slot).trans (dropRefs l (m.dropRef x.slot))

end ImageStore.SameSlots

/-- `t` has the sorter of `s`, and its slots but for item references. -/
structure SameStores (s t : State) : Prop where
  sorter : t.sorter = s.sorter
  images : s.images.SameSlots t.images

namespace SameStores

theorem refl (s : State) : SameStores s s := ⟨rfl, .refl _⟩

theorem trans {s t u : State} (h : SameStores s t) (k : SameStores t u) : SameStores s u :=
  ⟨k.sorter.trans h.sorter, h.images.trans k.images⟩

theorem of_eq {s t : State} (h1 : t.sorter = s.sorter) (h2 : t.images = s.images) : SameStores s t :=
  ⟨h1, h2 ▸ .refl _⟩

end SameStores

namespace State

theorem modOrder_stores (s : State) (i : Nat) (f : Order → Order) : SameStores s (s.modOrder i f) := .of_eq rfl rfl

theorem moveCounts_stores (s : State) (i k : Nat) (f : Counts → Counts) : SameStores s (s.moveCounts i k f) :=
  modOrder_stores s i _

theorem setOrderState_stores (s : State) (i : Nat) {st : OrderState} (h : st ≠ .ready) :
    SameStores s (s.setOrderState i st) :=
  .of_eq (by rw [setOrderState_sorter, if_neg h]) (setOrderState_images s i st)

theorem freeOrder_stores (s : State) (i : Nat) : SameStores s (s.freeOrder i) :=
  ⟨freeOrder_sorter s i, freeOrder_images s i ▸ .dropRefs _ _⟩

theorem addHold_stores (s : State) (i : Nat) (r : Hold) : SameStores s (s.addHold i r) := by
  cases h : (s.orderAt i).holds.has r with
  | true => rw [addHold_has h]; exact .refl s
  | false =>
    rw [addHold_new h]
    split
    · exact (modOrder_stores s i _).trans (setOrderState_stores _ i (by decide))
    · exact modOrder_stores s i _

/-- The discarded print of a VOID order frees the record at most (R9). -/
theorem discard_stores {s : State} {i : Nat} (h : (s.orderAt i).state = .void) (k : Nat) :
    SameStores s (s.discard i k) := by
  have hstate : ((s.moveCounts i k fun n => { n with w := n.w - 1, s := n.s + 1 }).orderAt i).state = .void := by
    rw [moveCounts, orderAt_modOrder]
    split
    · rw [(modCounts_rest _ _ _).1, h]
    · exact h
  simp only [discard, afterMove, hstate]
  split
  · exact (moveCounts_stores s i k _).trans (freeOrder_stores _ i)
  · exact moveCounts_stores s i k _

theorem spoilLive_stores (s : State) (i k : Nat) : SameStores s (s.spoilLive i k) := by
  simp only [spoilLive]
  split
  · exact (moveCounts_stores s i k _).trans (addHold_stores _ i .fault)
  · split
    · exact (moveCounts_stores s i k _).trans (setOrderState_stores _ i (by decide))
    · exact moveCounts_stores s i k _

theorem spoil_stores (s : State) (x : OrderItem) : SameStores s (s.spoil x) := by
  cases hi : s.findLive x.number with
  | none => simp only [spoil, hi]; exact .refl s
  | some i =>
    by_cases hv : (s.orderAt i).state = .void
    · rw [spoil_void hi hv]
      exact discard_stores hv x.item
    · rw [spoil_live hi hv]
      exact spoilLive_stores s i x.item

theorem spoil?_stores (s : State) (x : Option OrderItem) : SameStores s (s.spoil? x) := by
  cases x with
  | none => exact .refl s
  | some x => exact spoil_stores s x

theorem foldl_spoil_stores : ∀ (l : List OrderItem) (s : State), SameStores s (l.foldl spoil s)
  | [], s => .refl s
  | x :: l, s => (spoil_stores s x).trans (foldl_spoil_stores l (s.spoil x))

end State

/-! ### The loss of the web -/

/-- `t` differs from `s` only where the loss of the web and the moves of orders write. -/
def LossFrame (s t : State) : Prop :=
  t = { s with
    book := t.book, images := t.images, ports := t.ports
    sched.queueBlocked := t.sched.queueBlocked
    sorter.bins := t.sorter.bins
    due := t.due, engine := t.engine, cutter := t.cutter }

namespace LossFrame

theorem trans {s t u : State} (h : LossFrame s t) (k : LossFrame t u) : LossFrame s u := by
  unfold LossFrame at *
  rw [h] at k
  exact k

theorem of_order {s t : State} (h : OrderFrame s t) : LossFrame s t := by
  unfold LossFrame
  rw [h]

end LossFrame

namespace State

theorem cutOffEngine_loss (s : State) : LossFrame s s.cutOffEngine := by
  cases hw : s.engine.work with
  | idle => simp only [cutOffEngine, hw]; rfl
  | closing a n => simp only [cutOffEngine, hw]; rfl
  | frame c =>
    have hwriting : s.writing = true := by simp only [writing, hw]
    have hend : LossFrame s s.endFrame := rfl
    simp only [cutOffEngine, hw]
    exact (hend.trans (.of_order (abortFrame_frame hwriting))).trans rfl

theorem cutOffEngine_engine (s : State) : s.cutOffEngine.engine.work = .idle ∧
    s.cutOffEngine.engine.strobe = if s.writing then none else s.engine.strobe := by
  refine ⟨(cutOffEngine_facts s).2.1, ?_⟩
  cases hw : s.engine.work with
  | idle => simp [cutOffEngine, writing, hw]
  | closing a n => simp [cutOffEngine, writing, hw]
  | frame c =>
    have hwriting : s.writing = true := by simp only [writing, hw]
    simp only [cutOffEngine, hw]
    rw [if_pos hwriting]
    exact congrArg Engine.strobe (abortFrame_frame hwriting).engine

theorem cutOffEngine_drop (s : State) : s.cutOffEngine.cutter.drop = s.cutter.drop := by
  cases hw : s.engine.work with
  | idle => simp only [cutOffEngine, hw]
  | closing a n => simp only [cutOffEngine, hw]
  | frame c =>
    simp only [cutOffEngine, hw]
    rw [(abortWaste_facts ((frame?_iff s c).2 hw)).2.2]
    rfl

theorem cutOffEngine_stores (s : State) : SameStores s s.cutOffEngine := by
  cases hw : s.engine.work with
  | idle => simp only [cutOffEngine, hw]; exact .refl s
  | closing a n => simp only [cutOffEngine, hw]; exact .of_eq rfl rfl
  | frame c =>
    have habort : s.abortFrame = s.endFrame.spoil? (c.target.map fun t => ⟨t.number, t.item⟩) := by
      simp only [abortFrame, (frame?_iff s c).2 hw]
    have hend : SameStores s s.endFrame := .of_eq rfl rfl
    have hstores := hend.trans (spoil?_stores s.endFrame (c.target.map fun t => ⟨t.number, t.item⟩))
    rw [← habort] at hstores
    simp only [cutOffEngine, hw]
    exact hstores.trans (.of_eq rfl rfl)

theorem dropWeb_loss (s : State) : LossFrame s s.dropWeb := by
  have hdrop : LossFrame s { s with cutter := s.cutter.drop } := rfl
  have hspoils := hdrop.trans (.of_order (foldl_spoil_frame (s.cutter.web.filterMap fun x => x.order) _))
  simp only [dropWeb]
  split
  · exact hspoils
  · exact hspoils.trans rfl

theorem dropWeb_stores (s : State) : SameStores s s.dropWeb := by
  have hdrop : SameStores s { s with cutter := s.cutter.drop } := .of_eq rfl rfl
  have hspoils := hdrop.trans (foldl_spoil_stores (s.cutter.web.filterMap fun x => x.order) _)
  simp only [dropWeb]
  split
  · exact hspoils
  · exact hspoils.trans (.of_eq rfl rfl)

/-! ### The ACTIVE order -/

/-- The state that a line reset gives the ACTIVE order (R25). -/
def resetState (o : Order) : OrderState := if o.holds.isEmpty then stateByCounts o else .held

theorem resetActive_some {s : State} {i : Nat} (h : s.current = some i) :
    s.resetActive = s.setOrderState i (resetState (s.orderAt i)) := by
  simp only [resetActive, h, resetState]

theorem resetActive_none {s : State} (h : s.current = none) : s.resetActive = s := by
  simp only [resetActive, h]

theorem resetActive_loss (s : State) : LossFrame s s.resetActive := by
  cases h : s.current with
  | none => rw [resetActive_none h]; rfl
  | some i => rw [resetActive_some h]; exact .of_order (setOrderState_frame s i _)

theorem resetActive_cutter (s : State) : s.resetActive.cutter = s.cutter := by
  cases h : s.current with
  | none => rw [resetActive_none h]
  | some i => rw [resetActive_some h, setOrderState_frame s i _]

theorem resetActive_images (s : State) : s.resetActive.images = s.images := by
  cases h : s.current with
  | none => rw [resetActive_none h]
  | some i => rw [resetActive_some h, setOrderState_images]

theorem resetState_eq (o : Order) : resetState o = if o.holds.isEmpty = false then .held
    else if 0 < o.sum (·.p) then .queued else if 0 < o.sum (·.w) then .draining else .ready := by
  cases h : o.holds.isEmpty <;> simp [resetState, stateByCounts, h]

theorem resetState_ne_active (o : Order) : resetState o ≠ .active := by
  rw [resetState]
  split
  · rcases Order.stateByCounts_cases o with e | e | ⟨e, _⟩ <;> rw [e] <;> simp
  · simp

/-- COMPLETE bins differ from what they were in their state alone. -/
theorem bin_completed : ∀ (bs : List Nat) (t : Sorter) (b : Nat),
    (t.modBins (fun x => { x with state := .complete }) bs).bin b = t.bin b ∨
      b ∈ bs ∧ (t.modBins (fun x => { x with state := .complete }) bs).bin b = { t.bin b with state := .complete }
  | [], t, b => .inl rfl
  | x :: bs, t, b => by
    have hrest := bin_completed bs (t.modBins (fun x => { x with state := .complete }) [x]) b
    have hsplit : t.modBins (fun x => { x with state := .complete }) (x :: bs) =
        (t.modBins (fun x => { x with state := .complete }) [x]).modBins
          (fun x => { x with state := .complete }) bs := rfl
    rw [hsplit]
    have hfirst := Sorter.bin_modAt t (fun x => { x with state := .complete }) x b
    split at hfirst
    · next h =>
      rw [hfirst] at hrest
      refine .inr ⟨by rw [h.1]; exact List.mem_cons_self, ?_⟩
      rcases hrest with e | ⟨_, e⟩ <;> rw [e]
    · rw [hfirst] at hrest
      exact hrest.imp_right fun h => ⟨List.mem_cons_of_mem _ h.1, h.2⟩

/-- A bin keeps owner and count, and its state unless its order becomes READY. -/
theorem resetActive_bin {s : State} (b : Nat) : (s.resetActive.sorter.bin b).owner = (s.sorter.bin b).owner ∧
    (s.resetActive.sorter.bin b).count = (s.sorter.bin b).count ∧
    ((s.resetActive.sorter.bin b).state = (s.sorter.bin b).state ∨ (s.resetActive.sorter.bin b).state = .complete ∧
      ∃ i, (s.resetActive.orderAt i).state = .ready ∧ b ∈ (s.resetActive.orderAt i).bins) := by
  cases h : s.current with
  | none => rw [resetActive_none h]; exact ⟨rfl, rfl, .inl rfl⟩
  | some i =>
    have hlt : i < s.book.records.length := (firstRecord_some h).1
    rw [resetActive_some h]
    by_cases hr : resetState (s.orderAt i) = .ready
    · have hat := setOrderState_same s (resetState (s.orderAt i)) hlt
      rw [setOrderState_sorter, if_pos hr]
      rcases bin_completed (s.orderAt i).bins s.sorter b with e | ⟨hb, e⟩
      · rw [e]
        exact ⟨rfl, rfl, .inl rfl⟩
      · rw [e]
        exact ⟨rfl, rfl, .inr ⟨rfl, i, by rw [hat]; exact hr, by rw [hat]; exact hb⟩⟩
    · rw [setOrderState_sorter, if_neg hr]
      exact ⟨rfl, rfl, .inl rfl⟩

/-! ### The line-reset values -/

theorem setLine_strobe (s : State) (l : LineState) : (s.setLine l).engine.strobe = s.engine.strobe := by
  have hcopy : s.copyCorrections.engine.strobe = s.engine.strobe := by
    simp only [copyCorrections]
    split <;> rfl
  simp only [setLine, syncMotor]
  split <;> split <;> (try split) <;> first | exact hcopy | rfl

/-- A stopped motor that nothing wants stays as it is. -/
theorem setLine_rests {s : State} {l : LineState} (h : l = .stopped ∨ l = .fault) (hm : s.transport.motor = false)
    (hp : s.transport.probe = none) (hw : s.engine.work = .idle) : (s.setLine l).transport = s.transport := by
  have key : ∀ a : State, a.transport = s.transport → a.engine.work = s.engine.work →
      ({ a with ctl.line := l } : State).syncMotor.transport = s.transport := by
    intro a htr hwork
    have hwanted : ({ a with ctl.line := l } : State).motorWanted = false := by
      rcases h with rfl | rfl <;> simp [motorWanted, writing, htr, hwork, hp, hw]
    have hmotor : ({ a with ctl.line := l } : State).transport.motor = false := by rw [← hm, ← htr]
    rw [syncMotor, hwanted, hmotor, if_pos (beq_self_eq_true _)]
    exact htr
  simp only [setLine]
  split
  · exact key _ (copyCorrections_tr s) (copyCorrections_frame s).2.2
  · exact key s rfl rfl

/-- The state that a line reset brings to rest, the paper and the ACTIVE order already dealt with. -/
def abandoned (s : State) : State := s.cutOffEngine.dropWeb.resetActive

theorem abandoned_loss (s : State) : LossFrame s s.abandoned :=
  ((cutOffEngine_loss s).trans (dropWeb_loss _)).trans (resetActive_loss _)

theorem abandoned_engine (s : State) : s.abandoned.engine.work = .idle ∧
    s.abandoned.engine.strobe = if s.writing then none else s.engine.strobe := by
  rw [abandoned, resetActive_engine, dropWeb_engine]
  exact cutOffEngine_engine s

theorem abandoned_cutter (s : State) : s.abandoned.cutter = s.cutter.drop := by
  rw [abandoned, resetActive_cutter, dropWeb_cutter, cutOffEngine_drop]

theorem abandoned_stores (s : State) : s.images.SameSlots s.abandoned.images := by
  rw [abandoned, resetActive_images]
  exact ((cutOffEngine_stores s).trans (dropWeb_stores _)).images

theorem abandoned_posts (s : State) : s.abandoned.posts = s.posts := by
  rw [abandoned, resetActive_posts, dropWeb_posts]
  cases hw : s.engine.work with
  | idle => simp only [cutOffEngine, hw]
  | closing a n => simp only [cutOffEngine, hw]; rfl
  | frame c => simp only [cutOffEngine, hw]; exact abortFrame_posts s

theorem abandoned_bin (s : State) (b : Nat) : (s.abandoned.sorter.bin b).owner = (s.sorter.bin b).owner ∧
    (s.abandoned.sorter.bin b).count = (s.sorter.bin b).count ∧
    ((s.abandoned.sorter.bin b).state = (s.sorter.bin b).state ∨ (s.abandoned.sorter.bin b).state = .complete ∧
      ∃ i, (s.abandoned.orderAt i).state = .ready ∧ b ∈ (s.abandoned.orderAt i).bins) := by
  have hbins := resetActive_bin (s := s.cutOffEngine.dropWeb) b
  rwa [((cutOffEngine_stores s).trans (dropWeb_stores _)).sorter] at hbins

/-- The orders after the loss of the paper: the current one takes its state, the others stay (R25). -/
theorem abandoned_orders {s v : State} (hv : v = s.lostPrints.foldl spoil s) :
    (∀ i, v.current = some i → s.abandoned.orderAt i = { v.orderAt i with state := resetState (v.orderAt i) } ∧
      ∀ p, (s.abandoned.port p).flags =
        (s.cutOffEngine.dropWeb.port p).flags ||| OrderState.raised (resetState (v.orderAt i))) ∧
    ∀ i, v.current ≠ some i → s.abandoned.orderAt i = v.orderAt i := by
  have hbook : s.cutOffEngine.dropWeb.book = v.book := by rw [loseWeb_book, hv]
  have hat : ∀ i, s.cutOffEngine.dropWeb.orderAt i = v.orderAt i := fun i => orderAt_congr (by rw [hbook]) i
  have hcurrent : s.cutOffEngine.dropWeb.current = v.current := by simp only [current, hbook]
  refine ⟨fun i hi => ?_, fun i hi => ?_⟩
  · have hlt : i < s.cutOffEngine.dropWeb.book.records.length := by rw [hbook]; exact (firstRecord_some hi).1
    rw [abandoned, resetActive_some (hcurrent.trans hi), hat]
    exact ⟨by rw [setOrderState_same _ _ hlt, hat], fun p => setOrderState_flags _ i _ p⟩
  · cases hc : v.current with
    | none => rw [abandoned, resetActive_none (hcurrent.trans hc), hat]
    | some k =>
      have hne : i ≠ k := fun e => hi (by rw [hc, e])
      rw [abandoned, resetActive_some (hcurrent.trans hc), setOrderState_other _ _ hne, hat]

/-- The state of a line reset before the line state is set. -/
def resetBlocks (s : State) : State := s.abandoned.resetTransport.resetControl

theorem resetBlocks_ctl (s : State) : s.resetBlocks.ctl = { s.ctl with
    runEnable := false, pausePending := false
    faults := ⟨false, s.ctl.faults.jam, false, false, false, false⟩
    standbyTimer := none, wakeTimer := none, lastProbe := .none } := by
  have hctl : s.abandoned.ctl = s.ctl := by rw [abandoned_loss s]
  show ({ s.abandoned.ctl with
    runEnable := false, pausePending := false
    faults := { FaultSet.none with jam := s.abandoned.ctl.faults.jam }
    standbyTimer := none, wakeTimer := none, lastProbe := .none } : LineCtl) = _
  rw [hctl]
  rfl

theorem resetBlocks_transport (s : State) : s.resetBlocks.transport = { s.transport with
    position := 0, motor := false, indexRef := none, mismatches := 0, speed := none, pulseUs := none,
    matched := false, encoder := false, deadReckoning := none, probe := none, threaded := none
    changeover := none } := by
  have htr : s.abandoned.transport = s.transport := by rw [abandoned_loss s]
  rw [← htr]
  rfl

theorem resetBlocks_cal (s : State) : s.resetBlocks.cal =
    { s.cal with run := none, pending := none, pattern := false, test := none } := by
  have hcal : s.abandoned.cal = s.cal := by rw [abandoned_loss s]
  rw [← hcal]
  rfl

theorem resetBlocks_sched (s : State) : s.resetBlocks.sched = { s.sched with
    request := none, flushTimer := none, waitCause := .runEnable, queueBlocked := false
    deferred := false } := by
  have hsched : s.abandoned.sched = { s.sched with queueBlocked := s.abandoned.sched.queueBlocked } := by
    rw [abandoned_loss s]
  show ({ s.abandoned.sched with
    request := none, flushTimer := none, waitCause := .runEnable, queueBlocked := false
    deferred := false } : Scheduler) = _
  rw [hsched]

/-- The line that a line reset leaves: FAULT while the jam stands, else STOPPED (R171). -/
def resetTo (s : State) : LineState := if s.ctl.faults.jam then .fault else .stopped

theorem resetLine_eq (s : State) :
    s.resetLine = { s.resetBlocks.setLine s.resetTo with due := Due.none } := by
  have hline : (if s.resetBlocks.noFault then LineState.stopped else .fault) = s.resetTo := by
    have hfaults : s.resetBlocks.ctl.faults = ⟨false, s.ctl.faults.jam, false, false, false, false⟩ := by
      rw [resetBlocks_ctl]
    rw [noFault, hfaults, resetTo]
    cases s.ctl.faults.jam <;> rfl
  rw [← hline]
  rfl

/-- A line reset sets the line state last, and of the other blocks that writes nothing. -/
theorem resetLine_blocks (s : State) :
    s.resetLine.book = s.abandoned.book ∧ s.resetLine.ports = s.abandoned.ports ∧
      s.resetLine.images = s.abandoned.images ∧ s.resetLine.sorter = s.abandoned.sorter ∧
      s.resetLine.cutter = s.abandoned.cutter ∧ s.resetLine.monitor = s.abandoned.monitor ∧
      s.resetLine.now = s.abandoned.now ∧ s.resetLine.cal = s.resetBlocks.cal ∧
      s.resetLine.sched = s.resetBlocks.sched ∧ s.resetLine.ctl = { s.resetBlocks.ctl with line := s.resetTo } := by
  rw [resetLine_eq, setLine_frame]
  exact ⟨rfl, rfl, rfl, rfl, rfl, rfl, rfl, rfl, rfl, rfl⟩

theorem resetLine_engine (s : State) : s.resetLine.engine.work = .idle ∧
    s.resetLine.engine.strobe = if s.writing then none else s.engine.strobe := by
  have hengine : s.resetBlocks.engine = s.abandoned.engine := rfl
  rw [resetLine_eq]
  show (s.resetBlocks.setLine s.resetTo).engine.work = _ ∧ (s.resetBlocks.setLine s.resetTo).engine.strobe = _
  rw [setLine_work, setLine_strobe, hengine]
  exact abandoned_engine s

theorem resetLine_transport (s : State) : s.resetLine.transport = s.resetBlocks.transport := by
  rw [resetLine_eq]
  refine setLine_rests ?_ ?_ ?_ (abandoned_engine s).1
  · rw [resetTo]
    split
    · exact .inr rfl
    · exact .inl rfl
  · rw [resetBlocks_transport]
  · rw [resetBlocks_transport]

theorem lineReset_standby {s : State} (h : s.ctl.line = .standby) : s.lineReset = ⟨s, .ok, []⟩ := by
  simp only [lineReset, h, beq_self_eq_true, if_true]

theorem lineReset_running {s : State} (h : s.ctl.line ≠ .standby) : s.lineReset = done s s.resetLine [] := by
  simp only [lineReset, beq_eq_false_iff_ne.2 h, Bool.false_eq_true, if_false]

/-- What the posts tell of one port: all but its flags. -/
theorem port_kept_of_posts {s t : State} (h : t.posts = s.posts) (p : Port) :
    (t.port p).holder = (s.port p).holder ∧ (t.port p).enables = (s.port p).enables ∧
      (t.port p).out = (s.port p).out := by
  have hport := port_of_posts h p
  exact ⟨(congrArg PortState.holder hport :), (congrArg PortState.enables hport :),
    (congrArg PortState.out hport :)⟩

end State

end Sys2Proof.Machine

namespace Sys2Proof.Proofs

open Sys2Proof.Machine Sys2Proof.Machine.State

/-- Settles O32: the paper is abandoned first (`abandoned`), then the blocks take their line-reset values. -/
theorem lineResetAbandonsThePaper : Obligations.LineResetAbandonsThePaper := by
  unfold Obligations.LineResetAbandonsThePaper
  refine fun h s hp => ⟨fun hst => placed_of (mem_linePort hp) (lineReset_standby hst), fun hst v hv => ?_⟩
  obtain ⟨hbook, hports, himages, hsorter, hcutter, hmonitor, hnow, hcal, hsched, hctl⟩ := resetLine_blocks s
  obtain ⟨hmoved, hkept⟩ := abandoned_orders hv
  obtain ⟨hwork, hstrobe⟩ := resetLine_engine s
  have hloss := abandoned_loss s
  have hat : ∀ i, s.resetLine.orderAt i = s.abandoned.orderAt i := fun i => orderAt_congr (by rw [hbook]) i
  have hslots := abandoned_stores s
  refine ⟨s.resetLine, served_done (mem_linePort hp) (lineReset_running hst), fun i hi => ?_, fun i p hi => ?_,
    fun i hi => (hat i).trans (hkept i hi), hwork, hstrobe, hcal.trans (resetBlocks_cal s), ?_,
    (resetLine_transport s).trans (resetBlocks_transport s), hsched.trans (resetBlocks_sched s), ?_, ?_,
    resetLine_stored s, ?_, fun b => ?_, fun k => ?_, ?_, ?_, fun p => ?_, ?_, fun hs i => ?_⟩
  · rw [hat, (hmoved i hi).1, resetState_eq]
  · rw [port_flags_congr hports, (hmoved i hi).2 p, hat, (hmoved i hi).1, BitVec.getLsbD_or, BitVec.getLsbD_or]
    refine ⟨fun hr => ?_, fun hh => ?_⟩
    · rw [show resetState (v.orderAt i) = .ready from hr]
      exact Bool.or_true _
    · rw [show resetState (v.orderAt i) = .held from hh]
      exact Bool.or_true _
  · rw [hcutter, abandoned_cutter]
    rfl
  · rw [hctl, resetBlocks_ctl]
    rfl
  · rw [hmonitor, hloss]
  · rw [hsorter, hloss]
  · obtain ⟨howner, hcount, hstate⟩ := abandoned_bin s b
    rw [hsorter]
    refine ⟨howner, hcount, hstate.imp_right fun ⟨hc, i, hr, hb⟩ => ⟨hc, i, ?_, ?_⟩⟩
    · rw [hat]; exact hr
    · rw [hat]; exact hb
  · rw [himages]
    exact hslots.slot k
  · rw [himages, hslots.load]
  · rw [himages, hslots.frameValid]
  · refine port_kept_of_posts ?_ p
    rw [State.posts, hports]
    exact abandoned_posts s
  · rw [hnow, hloss]
  · have hvs : BookSound v := hv ▸ foldl_spoil_sound _ hs
    rw [hat]
    by_cases hc : v.current = some i
    · rw [(hmoved i hc).1]
      exact resetState_ne_active _
    · rw [hkept i hc]
      intro hactive
      cases hk : v.current with
      | none => exact current_none hk i hactive
      | some k => exact hc (by rw [hk, hvs.oneActive k i (current_some hk) hactive])

end Sys2Proof.Proofs
end
